-- ==== Sys2Proof/Word.lean ====
section
/-! DEFINITION. The two word types of the machine: bytes and 16-bit words (00_scope.md R7, R9). -/

namespace Sys2Proof

/-- An 8-bit value: a register, a byte of memory, a byte on the bus (R7). -/
abbrev Byte := BitVec 8

/-- A 16-bit value: PC, SP, a register pair, a bus address (R7). -/
abbrev Word := BitVec 16

/-- `cat16(hi, lo) = (hi << 8) | lo` (R9). -/
abbrev cat16 (hi lo : Byte) : Word := hi ++ lo

/-- Bits 15..8 of a word. -/
abbrev hiByte (w : Word) : Byte := w.extractLsb' 8 8

/-- Bits 7..0 of a word. -/
abbrev loByte (w : Word) : Byte := w.extractLsb' 0 8

end Sys2Proof
end

