-- ==== Sys2Proof/Config.lean ====
section
/-! DEFINITION. What the spec leaves OPEN (00_scope.md R8) or does not settle, as constants with no body: nothing can be proved
about their values. The parameters to which the spec gives a value are in Machine/Params.lean. -/

namespace Sys2Proof

/-- AMP_UNIT, OPEN in R8. R821 bounds it: 480 × AMP_UNIT fits an unsigned 16-bit sample, so it is at most 136.
DESIGN CHOICE (log 8): a free constant within that bound. Safe. -/
opaque Config.ampUnitBelow137 : Fin 137

/-- The amplification scale of 64_spu.md R820. -/
def Config.ampUnit : Nat := Config.ampUnitBelow137.val

/-- By how many seconds the `n`-th wall-clock reading that the pending list does not supply is past the reading before it.
66_input_host.md R958: "a sequence of values, one per read, that never decreases".
DESIGN CHOICE (log 7): a free value. Safe. -/
opaque Config.wallStep : Nat → Nat

/-- Byte `k` of the save layout's RTC part where the file ends before it: 66_input_host.md R960 lays out 22 bytes, of which a
file of the 18 that its sentence and 92_eei_decisions.md D48 count has none past byte 17.
DESIGN CHOICE (log 20): a free value. Safe. -/
opaque Config.saveByteBeyondFile : Nat → BitVec 8

/-- What a saved latch-flag byte other than 0 and 1 loads as: R960 gives one byte to the 1-bit flag of 10_state.md R109 and no
reading of other values.
DESIGN CHOICE (log 21): a free value. Safe. -/
opaque Config.savedLatchFlag : BitVec 8 → Bool

end Sys2Proof
end

