-- ==== Sys2Proof/Machine/State.lean ====
section
/-! DEFINITION. Everything the spec gives the machine, as plain data, and its value after reset (10_state.md, 70_reset_and_hazards.md
R1001). What reads and writes a field is in the file of its unit. -/

namespace Sys2Proof.Machine

/-! ## CPU (10_state.md R30 to R40) -/

/-- The four flags. F as a byte is `Z N H C 0 0 0 0` (R32), so its low nibble is 0 by construction. -/
structure Flags where
  z : Bool
  n : Bool
  h : Bool
  c : Bool
  deriving DecidableEq, Repr

/-- The registers of the CPU (R30 to R38). -/
structure Cpu where
  a : Byte
  f : Flags
  b : Byte
  c : Byte
  d : Byte
  e : Byte
  h : Byte
  l : Byte
  sp : Word
  pc : Word
  /-- The master interrupt enable (R36). -/
  ime : Bool
  /-- The one-instruction delayed-enable latch (R37). -/
  eiPending : Bool
  /-- R38. -/
  halted : Bool
  deriving DecidableEq, Repr

/-- The kinds of fatal fault (R39). -/
inductive FatalKind where
  | illegalOpcode
  | stop
  deriving DecidableEq, Repr

/-- The fault record FAULT: `Fatal(kind, opcode, pc)` (R39). -/
structure FatalRecord where
  kind : FatalKind
  opcode : Byte
  pc : Word
  deriving DecidableEq, Repr

/-! ## Memories (R45 to R50, R76) -/

/-- A memory: address and byte pairs, addresses strictly rising, no byte equal to what an unlisted address reads as
(Machine/Memory.lean has the reads, the writes and the canonical form). -/
abbrev Memory := List Host.Cell

/-- Every memory of the machine, each from its own offset 0. -/
structure Memories where
  /-- The cartridge ROM image: bank b at b × 0x4000 (65_cartridge.md R880). -/
  rom : Memory
  /-- VRAM[bank][i] at bank × 0x2000 + i (R46). -/
  vram : Memory
  /-- WRAM[bank][i] at bank × 0x1000 + i (R45). -/
  wram : Memory
  /-- 160 bytes (R47). -/
  oam : Memory
  /-- Zero-page RAM, 127 bytes (R48). -/
  zp : Memory
  /-- Wave RAM, 16 bytes (R76). -/
  wave : Memory
  /-- 64 bytes (R49). -/
  bgPal : Memory
  /-- 64 bytes (R49). -/
  objPal : Memory
  /-- External cartridge RAM (65_cartridge.md R883). -/
  cartRam : Memory
  /-- The low nibbles of MBC2RAM; the upper nibble is 1 (65_cartridge.md R892). DEDUCED (log 11). Safe. -/
  mbc2Ram : Memory
  deriving DecidableEq, Repr

/-! ## Interrupt controller and timer (R42, R43, R100) -/

structure IntCtl where
  /-- IF bits 4..0 (R42). -/
  request : BitVec 5
  /-- IE (R43). -/
  enable : Byte
  deriving DecidableEq, Repr

structure Timer where
  /-- The 16-bit divider_counter (R100). -/
  divider : Word
  tima : Byte
  tma : Byte
  /-- TAC bits 2..0: bit 2 is `started`, bits 1..0 the clock select (R61). -/
  tac : BitVec 3
  deriving DecidableEq, Repr

/-! ## Copy engines (R101, R102) -/

structure OamDma where
  running : Bool
  src : Word
  position : Nat
  phase : Nat
  /-- The last value written to the DMA register (R83). -/
  last : Byte
  deriving DecidableEq, Repr

structure Hdma where
  src : Word
  dst : BitVec 13
  /-- Blocks of 16 bytes left, 0..128. -/
  remaining : Nat
  hblank : Bool
  active : Bool
  /-- The HDMA5 length field that an inactive engine shows. -/
  field : BitVec 7
  deriving DecidableEq, Repr

/-! ## PPU (R78 to R90, R103) -/

structure Ppu where
  lcdc : Byte
  statLyc : Bool
  statMode2 : Bool
  statMode1 : Bool
  statMode0 : Bool
  scy : Byte
  scx : Byte
  /-- 0..153 (R81). -/
  ly : Nat
  lyc : Byte
  bgp : Byte
  obp0 : Byte
  obp1 : Byte
  wy : Byte
  wx : Byte
  /-- 0..455 (R103). -/
  linePosition : Nat
  /-- VBK bit 0 (R86). -/
  vbk : BitVec 1
  /-- BCPS bits 5..0 and bit 7 (R89). -/
  bgIndex : BitVec 6
  bgInc : Bool
  /-- OCPS bits 5..0 and bit 7 (R89). -/
  objIndex : BitVec 6
  objInc : Bool
  deriving DecidableEq, Repr

/-! ## SPU (R62 to R76, R104 to R107) -/

/-- What channels 1, 2 and 4 hold for their envelope: the register NRx2 as written, and the volume, direction and step count of
the last trigger (64_spu.md R811, R813; log 18). A timer counts the cycles left, 0 when none is left (log 10). -/
structure Envelope where
  /-- NRx2 (R64). -/
  reg : Byte
  volume : BitVec 4
  dir : Bool
  steps : BitVec 3
  timer : Nat
  deriving DecidableEq, Repr

/-- A pulse channel (R105). -/
structure Pulse where
  enabled : Bool
  duty : BitVec 2
  lenLoad : BitVec 6
  env : Envelope
  /-- The 11-bit period offset, NRx4 bits 2..0 and NRx3. -/
  offset : BitVec 11
  lenEnable : Bool
  lenTimer : Nat
  freqTimer : Nat
  phase : BitVec 3
  deriving DecidableEq, Repr

/-- The sweep of channel 1: the fields of NR10 and `sweep_timer` (R62, R105). -/
structure Sweep where
  time : BitVec 3
  dir : Bool
  shift : BitVec 3
  timer : Nat
  deriving DecidableEq, Repr

/-- The wave channel (R106). -/
structure Wave where
  enabled : Bool
  /-- NR30 bit 7 (R67). -/
  dac : Bool
  lenLoad : BitVec 8
  volCode : BitVec 2
  offset : BitVec 11
  lenEnable : Bool
  lenTimer : Nat
  freqTimer : Nat
  index : BitVec 5
  deriving DecidableEq, Repr

/-- The noise channel (R107). -/
structure Noise where
  enabled : Bool
  lenLoad : BitVec 6
  env : Envelope
  /-- NR43 (R71). -/
  poly : Byte
  lenEnable : Bool
  lenTimer : Nat
  freqTimer : Nat
  lfsr : BitVec 15
  deriving DecidableEq, Repr

structure Spu where
  /-- NR52 bit 7 (R75). -/
  master : Bool
  nr50 : Byte
  nr51 : Byte
  /-- Cycles since the last output frame, 0..63 (R104). -/
  samplePhase : Nat
  ch1 : Pulse
  sweep : Sweep
  ch2 : Pulse
  ch3 : Wave
  ch4 : Noise
  deriving DecidableEq, Repr

/-! ## Cartridge (R108, R109; 65_cartridge.md R882 to R886) -/

/-- The mapper models; `plain` is the document's NONE. -/
inductive Mapper where
  | plain
  | mbc1
  | mbc2
  | mbc3
  | mbc5
  deriving DecidableEq, Repr

/-- The MBC3 real-time clock (R109). -/
structure Rtc where
  /-- The wall-clock second of simulated time 0. An integer: a write may set it before second 0 (log 9). -/
  base : Int
  halted : Bool
  haltTs : Nat
  latchFlag : Bool
  s : Byte
  m : Byte
  h : Byte
  dayl : Byte
  dayh : Byte
  deriving DecidableEq, Repr

/-- The cartridge: what the header fixed at load, and the mapper's registers. One set of registers serves every model; each
mapper command masks its value to the model's width (65_cartridge.md R886; log 15). -/
structure Cart where
  mapper : Mapper
  battery : Bool
  hasRtc : Bool
  romBanks : Nat
  ramSize : Nat
  ramEnable : Bool
  romBank : BitVec 9
  ramBank : BitVec 4
  mode : Bool
  ramSel : BitVec 4
  rtc : Rtc
  dirty : Bool
  flushAt : Nat
  deriving DecidableEq, Repr

/-! ## Joypad and host (R110, R111; 66_input_host.md) -/

inductive Button where
  | right | left | up | down | a | b | select | start
  deriving DecidableEq, Repr

/-- Which buttons are pressed (R110). -/
structure Pressed where
  right : Bool
  left : Bool
  up : Bool
  down : Bool
  a : Bool
  b : Bool
  select : Bool
  start : Bool
  deriving DecidableEq, Repr

/-- A pending `set_button(button, pressed)` of the host: applied by the first `refresh_input()`, between two calls of
`run_for`, at which `T` is at or past `due` (66_input_host.md R952, R966; log 6). -/
structure InputEvent where
  due : Nat
  button : Button
  pressed : Bool
  deriving DecidableEq, Repr

/-- What the machine hands to its host (R111). A DMG line carries shades, a GBC line 15-bit colors (63_ppu.md R754, R755). -/
inductive Output where
  | drawLineDmg (ly : Nat) (line : List (BitVec 2))
  | drawLineGbc (ly : Nat) (line : List (BitVec 15))
  | flip
  | audioFrame (left right : Nat)
  | saveFlush (cartRam mbc2Ram : Memory) (rtc : Rtc)
  deriving DecidableEq, Repr

/-- What the host gives and takes. -/
structure HostIo where
  /-- P1 bits 5..4 (R56): bit 1 is the buttons row, bit 0 the direction row, each visible when 0. -/
  sel : BitVec 2
  pressed : Pressed
  /-- The host's pending button events, oldest first (log 6). -/
  inputs : List InputEvent
  /-- The host's pending wall-clock readings, next first (66_input_host.md R958; log 7). -/
  wallQueue : List Nat
  /-- The latest reading, and how many readings came from no list (log 7). -/
  wallLast : Nat
  wallReads : Nat
  /-- The output trace, NEWEST FIRST (R111; log 12). -/
  trace : List Output
  deriving DecidableEq, Repr

/-! ## The machine -/

/-- The whole machine. -/
structure State where
  cpu : Cpu
  /-- FAULT (R39). -/
  fault : Option FatalRecord
  /-- T, the cycle counter, unbounded (R41, 00_scope.md R7). -/
  t : Nat
  /-- GBC_MODE (00_scope.md R2), fixed for the run. -/
  gbcMode : Bool
  int : IntCtl
  mem : Memories
  /-- SVBK bits 2..0 (R91). -/
  svbk : BitVec 3
  timer : Timer
  dma : OamDma
  hdma : Hdma
  ppu : Ppu
  spu : Spu
  cart : Cart
  io : HostIo
  deriving DecidableEq, Repr

/-- Why the machine stops. -/
inductive Fault where
  /-- Raised by `step` alone, on a machine whose FAULT is set: "Once FAULT ≠ none, `Step()` has no successor"
  (60_exceptions.md R612). The instruction that set FAULT is an undefined opcode or STOP. Safe: nothing can be shown of a
  machine past this point (log 4). -/
  | fatal (r : FatalRecord)
  deriving DecidableEq, Repr

/-- Why the model has no meaning for an instruction. -/
inductive Refusal where
  /-- Raised by an arm of `exec` whose instruction has no meaning yet. Safe. No arm raises it now. -/
  | notModelled (mnemonic : String)
  deriving DecidableEq, Repr

/-! ## Reset (70_reset_and_hazards.md R1000, R1001) -/

/-- BOOT_CPU in DMG mode (R40). -/
def Cpu.bootDmg : Cpu where
  a := 0x01
  f := { z := true, n := false, h := true, c := true }
  b := 0x00
  c := 0x13
  d := 0x00
  e := 0xD8
  h := 0x01
  l := 0x4D
  sp := 0xFFFE
  pc := 0x0100
  ime := false
  eiPending := false
  halted := false

/-- BOOT_CPU in GBC mode (R40). -/
def Cpu.bootGbc : Cpu where
  a := 0x11
  f := { z := true, n := false, h := false, c := false }
  b := 0x00
  c := 0x00
  d := 0xFF
  e := 0x56
  h := 0x00
  l := 0x0D
  sp := 0xFFFE
  pc := 0x0100
  ime := false
  eiPending := false
  halted := false

/-- Every memory with nothing listed: INIT_MEM and the ROM of an empty image (log 1, log 2). -/
def Memories.empty : Memories where
  rom := []
  vram := []
  wram := []
  oam := []
  zp := []
  wave := []
  bgPal := []
  objPal := []
  cartRam := []
  mbc2Ram := []

def Envelope.zero : Envelope where
  reg := 0
  volume := 0
  dir := false
  steps := 0
  timer := 0

/-- R105: "All reset to 0 with `enabled` = 0". -/
def Pulse.zero : Pulse where
  enabled := false
  duty := 0
  lenLoad := 0
  env := Envelope.zero
  offset := 0
  lenEnable := false
  lenTimer := 0
  freqTimer := 0
  phase := 0

def Sweep.zero : Sweep where
  time := 0
  dir := false
  shift := 0
  timer := 0

/-- R106. -/
def Wave.zero : Wave where
  enabled := false
  dac := false
  lenLoad := 0
  volCode := 0
  offset := 0
  lenEnable := false
  lenTimer := 0
  freqTimer := 0
  index := 0

/-- R107: all 0, `lfsr` 0x7FFF. -/
def Noise.zero : Noise where
  enabled := false
  lenLoad := 0
  env := Envelope.zero
  poly := 0
  lenEnable := false
  lenTimer := 0
  freqTimer := 0
  lfsr := 0x7FFF

def Spu.reset : Spu where
  master := true
  nr50 := 0x77
  nr51 := 0xF3
  samplePhase := 0
  ch1 := Pulse.zero
  sweep := Sweep.zero
  ch2 := Pulse.zero
  ch3 := Wave.zero
  ch4 := Noise.zero

def Ppu.reset : Ppu where
  lcdc := 0x91
  statLyc := false
  statMode2 := false
  statMode1 := false
  statMode0 := false
  scy := 0
  scx := 0
  ly := 0
  lyc := 0
  bgp := 0xFC
  obp0 := 0xFF
  obp1 := 0xFF
  wy := 0
  wx := 0
  linePosition := 0
  vbk := 0
  bgIndex := 0
  bgInc := false
  objIndex := 0
  objInc := false

/-- The RTC of a fresh load at wall time `wall` (R109); `haltTs` is the model's 0 (log 3). -/
def Rtc.fresh (wall : Nat) : Rtc where
  base := wall
  halted := false
  haltTs := 0
  latchFlag := false
  s := 0
  m := 0
  h := 0
  dayl := 0
  dayh := 0

/-- The mapper registers after reset (65_cartridge.md R886): ROM bank 1, RAM bank 0, RAM protected but for NONE. -/
def Cart.fresh (mapper : Mapper) (battery hasRtc : Bool) (romBanks ramSize : Nat) (rtc : Rtc) : Cart where
  mapper := mapper
  battery := battery
  hasRtc := hasRtc
  romBanks := romBanks
  ramSize := ramSize
  ramEnable := mapper == .plain
  romBank := 1
  ramBank := 0
  mode := false
  ramSel := 0
  rtc := rtc
  dirty := false
  flushAt := 0

/-- The default of the parameter BOOT_CPU in each mode (R40). -/
def Cpu.boot (gbcMode : Bool) : Cpu := if gbcMode then Cpu.bootGbc else Cpu.bootDmg

/-- The state after reset of a machine in the given mode with the given memories, cartridge and wall time at load (R1001).
`bootCpu` is the parameter BOOT_CPU: "A model should take `BOOT_CPU` as a parameter with these values as its default" (R40). The
control bits are 0 whatever it is. -/
def State.resetWith (gbcMode : Bool) (mem : Memories) (cart : Cart) (wall : Nat) (bootCpu : Cpu := Cpu.boot gbcMode) :
    State where
  cpu := { bootCpu with ime := false, eiPending := false, halted := false }
  fault := none
  t := 0
  gbcMode := gbcMode
  int := { request := 0x01, enable := 0x00 }
  mem := mem
  svbk := 0
  timer := { divider := 0, tima := 0, tma := 0, tac := 0 }
  dma := { running := false, src := 0, position := 0, phase := 0, last := 0xFF }
  hdma := { src := 0, dst := 0, remaining := 0, hblank := false, active := false, field := 0x7F }
  ppu := Ppu.reset
  spu := Spu.reset
  cart := cart
  io :=
    { sel := 0
      pressed :=
        { right := false, left := false, up := false, down := false, a := false, b := false, select := false, start := false }
      inputs := []
      wallQueue := []
      wallLast := wall
      wallReads := 0
      trace := [] }

/-- The machine right after reset with the empty image: every header byte 0, so DMG mode, mapper NONE, two ROM banks, no RAM
(65_cartridge.md R881 to R884). A program is loaded from outside (log 2). -/
def State.reset : State :=
  State.resetWith false Memories.empty (Cart.fresh .plain false false 2 0 (Rtc.fresh 0)) 0

end Sys2Proof.Machine
end

