-- ==== Sys2Proof/Syntax.lean ====
section
/-! DEFINITION. The instruction set as syntax: one constructor per mnemonic of spec/opcode_table.json. -/

namespace Sys2Proof

/-- The r8 operands that are registers (30_encoding.md R202). Code 6 is the byte at HL and has constructors of its own. -/
inductive R8 where
  | b | c | d | e | h | l | a
  deriving DecidableEq, Repr

/-- The first 16-bit pair table of R203 (LD rr,n16; ADD HL,rr; INC rr; DEC rr). -/
inductive R16 where
  | bc | de | hl | sp
  deriving DecidableEq, Repr

/-- The second 16-bit pair table of R203, as PUSH reads it. -/
inductive R16q where
  | bc | de | hl | af
  deriving DecidableEq, Repr

/-- The pairs POP rr writes (41_load16_stack.md R335); POP AF is an instruction of its own (R336). -/
inductive R16p where
  | bc | de | hl
  deriving DecidableEq, Repr

/-- The condition codes of R204. -/
inductive Cond where
  | nz | z | nc | c
  deriving DecidableEq, Repr

/-- A bit number or an RST index, 0..7 (R205). -/
abbrev Index3 := BitVec 3

/-- The instructions, in the order of spec/opcode_table.json. -/
inductive Instr where
  -- 8-bit loads (40_load8.md)
  | ldRR (dst src : R8)
  | ldRN (dst : R8) (n : Byte)
  | ldRHl (dst : R8)
  | ldHlR (src : R8)
  | ldHlN (n : Byte)
  | ldABc
  | ldADe
  | ldBcA
  | ldDeA
  | ldAN16 (a : Word)
  | ldN16A (a : Word)
  | ldhAN (n : Byte)
  | ldhNA (n : Byte)
  | ldAC
  | ldCA
  | ldAHli
  | ldAHld
  | ldHliA
  | ldHldA
  -- 16-bit loads and stack (41_load16_stack.md)
  | ldRrN16 (p : R16) (v : Word)
  | ldN16Sp (a : Word)
  | ldSpHl
  | ldHlSpE (e : Byte)
  | pushRr (q : R16q)
  | popRr (q : R16p)
  | popAf
  -- 8-bit arithmetic and logic (42_alu8.md)
  | addR (r : R8)
  | addHl
  | addN (n : Byte)
  | adcR (r : R8)
  | adcHl
  | adcN (n : Byte)
  | subR (r : R8)
  | subHl
  | subN (n : Byte)
  | sbcR (r : R8)
  | sbcHl
  | sbcN (n : Byte)
  | andR (r : R8)
  | andHl
  | andN (n : Byte)
  | xorR (r : R8)
  | xorHl
  | xorN (n : Byte)
  | orR (r : R8)
  | orHl
  | orN (n : Byte)
  | cpR (r : R8)
  | cpHl
  | cpN (n : Byte)
  | incR (dst : R8)
  | decR (dst : R8)
  | incHl
  | decHl
  | daa
  | cpl
  | scf
  | ccf
  -- 16-bit arithmetic (43_alu16.md)
  | addHlRr (p : R16)
  | incRr (p : R16)
  | decRr (p : R16)
  | addSpE (e : Byte)
  -- rotates and shifts (44_rotate_shift.md)
  | rlca
  | rrca
  | rla
  | rra
  | rlcR (r : R8)
  | rlcHl
  | rrcR (r : R8)
  | rrcHl
  | rlR (r : R8)
  | rlHl
  | rrR (r : R8)
  | rrHl
  | slaR (r : R8)
  | slaHl
  | sraR (r : R8)
  | sraHl
  | swapR (r : R8)
  | swapHl
  | srlR (r : R8)
  | srlHl
  -- single-bit operations (45_bit.md)
  | bitR (b : Index3) (r : R8)
  | bitHl (b : Index3)
  | resR (b : Index3) (r : R8)
  | resHl (b : Index3)
  | setR (b : Index3) (r : R8)
  | setHl (b : Index3)
  -- control transfer (46_control.md)
  | jp (a : Word)
  | jpCc (cc : Cond) (a : Word)
  | jpHl
  | jr (e : Byte)
  | jrCc (cc : Cond) (e : Byte)
  | call (a : Word)
  | callCc (cc : Cond) (a : Word)
  | ret
  | retCc (cc : Cond)
  | reti
  | rst (t : Index3)
  -- system and control (47_system.md)
  | nop
  /-- R501: the prefix byte alone. Its meaning fetches the second byte and executes the CB table's row. -/
  | prefixCb
  | halt
  | stop
  | di
  | ei
  /-- R506, R212: one of the eleven undefined opcodes, kept as data ("represent as an explicit enum variant"). -/
  | illegal (op : Byte)
  deriving DecidableEq, Repr

end Sys2Proof
end

