-- ==== Sys2Proof/Machine/Flags.lean ====
section
/-! DEFINITION. Results and flags of the arithmetic, logic, rotate and shift operations, as functions of the operand values
(42_alu8.md, 43_alu16.md, 44_rotate_shift.md, 45_bit.md). -/

namespace Sys2Proof.Machine

/-! ## 8-bit arithmetic and logic (R360 to R368) -/

/-- A two-operand operation: A, the operand and the old carry to the new A and the new flags. -/
abbrev AluOp := Byte → Byte → Bool → Byte × Flags

/-- Bit 4 of `mix = a ^ b ^ (res mod 2^16)`: the carry or borrow into bit 4 (42_alu8.md, introduction). -/
def halfMix (a b : Byte) (res : Int) : Bool :=
  (a.zeroExtend 16 ^^^ b.zeroExtend 16 ^^^ BitVec.ofInt 16 res).getLsbD 4

/-- `res8` and the flags of an addition whose exact result is `res` (R361, R362). -/
def sumResult (a b : Byte) (res : Int) : Byte × Flags :=
  let res8 := BitVec.ofInt 8 res
  (res8, { z := res8 == 0, n := false, h := halfMix a b res, c := decide (res > 0xFF) })

/-- `res8` and the flags of a subtraction whose exact result is `res` (R363, R364). -/
def differenceResult (a b : Byte) (res : Int) : Byte × Flags :=
  let res8 := BitVec.ofInt 8 res
  (res8, { z := res8 == 0, n := true, h := halfMix a b res, c := decide (res < 0) })

/-- ADD (R361). -/
def aluAdd : AluOp := fun a b _ => sumResult a b ((a.toNat : Int) + b.toNat)

/-- ADC (R362). -/
def aluAdc : AluOp := fun a b c => sumResult a b ((a.toNat : Int) + b.toNat + c.toNat)

/-- SUB (R363). -/
def aluSub : AluOp := fun a b _ => differenceResult a b ((a.toNat : Int) - b.toNat)

/-- SBC (R364). -/
def aluSbc : AluOp := fun a b c => differenceResult a b ((a.toNat : Int) - b.toNat - c.toNat)

/-- AND (R365). -/
def aluAnd : AluOp := fun a b _ => (a &&& b, { z := a &&& b == 0, n := false, h := true, c := false })

/-- XOR (R366). -/
def aluXor : AluOp := fun a b _ => (a ^^^ b, { z := a ^^^ b == 0, n := false, h := false, c := false })

/-- OR (R367). -/
def aluOr : AluOp := fun a b _ => (a ||| b, { z := a ||| b == 0, n := false, h := false, c := false })

/-- CP: the flags of SUB, A unchanged (R368). -/
def aluCp : AluOp := fun a b _ => (a, (differenceResult a b ((a.toNat : Int) - b.toNat)).2)

/-! ## One-operand 8-bit operations (R369 to R376) -/

/-- INC: C preserved, H when the low nibble wraps (R369). -/
def incResult (v : Byte) (f : Flags) : Byte × Flags :=
  (v + 1, { z := v + 1 == 0, n := false, h := v.extractLsb' 0 4 == 0xF, c := f.c })

/-- DEC: C unchanged, H when the low nibble wraps from 0 (R370). -/
def decResult (v : Byte) (f : Flags) : Byte × Flags :=
  (v - 1, { z := v - 1 == 0, n := true, h := v.extractLsb' 0 4 == 0, c := f.c })

/-- DAA (R373). `a` is an unbounded integer until the end. -/
def daaResult (a : Byte) (f : Flags) : Byte × Flags :=
  let high := if f.n then f.c else f.c || decide (a.toNat > 0x99)
  let low := if f.n then f.h else f.h || decide (a.toNat % 16 > 0x09)
  let adjust : Int := (if high then 0x60 else 0) + (if low then 0x06 else 0)
  let res := BitVec.ofInt 8 (if f.n then (a.toNat : Int) - adjust else (a.toNat : Int) + adjust)
  (res, { z := res == 0, n := f.n, h := false, c := high })

/-- CPL (R374). -/
def cplResult (a : Byte) (f : Flags) : Byte × Flags :=
  (a ^^^ 0xFF, { z := f.z, n := true, h := true, c := f.c })

/-- SCF (R375). -/
def scfFlags (f : Flags) : Flags := { z := f.z, n := false, h := false, c := true }

/-- CCF (R376). -/
def ccfFlags (f : Flags) : Flags := { z := f.z, n := false, h := false, c := !f.c }

/-! ## 16-bit arithmetic (R333, R400, R403) -/

/-- ADD HL,rr (R400). -/
def addHlResult (a b : Word) (f : Flags) : Word × Flags :=
  let res := a.toNat + b.toNat
  (BitVec.ofNat 16 res,
    { z := f.z, n := false, h := decide (a.toNat % 4096 + b.toNat % 4096 > 0xFFF), c := decide (res > 0xFFFF) })

/-- SP plus a signed displacement, with H and C from the low-byte mix (R333, R403). -/
def spPlusResult (sp : Word) (e : Byte) : Word × Flags :=
  let x := e.signExtend 16
  let res := sp + x
  let mix := sp ^^^ x ^^^ res
  (res, { z := false, n := false, h := mix &&& 0x010 != 0, c := mix &&& 0x100 != 0 })

/-! ## Rotates, shifts and bits (R420 to R432, R450 to R452) -/

/-- A rotate or shift: the operand and the old carry to the result and the new carry. -/
abbrev ShiftOp := Byte → Bool → Byte × Bool

/-- R420, R425. -/
def shRlc : ShiftOp := fun b _ => (b <<< 1 ||| (b >>> 7), b.getLsbD 7)

/-- R421, R426. -/
def shRrc : ShiftOp := fun b _ => (b >>> 1 ||| (b <<< 7), b.getLsbD 0)

/-- R422, R427. -/
def shRl : ShiftOp := fun b c => (b <<< 1 ||| (if c then 1 else 0), b.getLsbD 7)

/-- R423, R428. -/
def shRr : ShiftOp := fun b c => (b >>> 1 ||| (if c then 0x80 else 0), b.getLsbD 0)

/-- R429. -/
def shSla : ShiftOp := fun b _ => (b <<< 1, b.getLsbD 7)

/-- R430. -/
def shSra : ShiftOp := fun b _ => (b >>> 1 ||| (b &&& 0x80), b.getLsbD 0)

/-- R431. -/
def shSwap : ShiftOp := fun b _ => (b.extractLsb' 0 4 ++ b.extractLsb' 4 4, false)

/-- R432. -/
def shSrl : ShiftOp := fun b _ => (b >>> 1, b.getLsbD 0)

/-- The flags of a CB rotate or shift: "normal Z rules" (R424). -/
def shiftFlags (r : Byte × Bool) : Flags := { z := r.1 == 0, n := false, h := false, c := r.2 }

/-- The flags of a rotate on A: "Z forced to 0" (R420 to R423). -/
def rotateAFlags (r : Byte × Bool) : Flags := { z := false, n := false, h := false, c := r.2 }

/-- BIT (R450). -/
def bitFlags (b : Index3) (v : Byte) (f : Flags) : Flags :=
  { z := !v.getLsbD b.toNat, n := false, h := true, c := f.c }

/-- RES (R451). -/
def clearBit (b : Index3) (v : Byte) : Byte := v &&& ~~~(1#8 <<< b.toNat)

/-- SET (R452). -/
def setBit (b : Index3) (v : Byte) : Byte := v ||| (1#8 <<< b.toNat)

end Sys2Proof.Machine
end

