-- ==== Sys2Proof/Machine/Params.lean ====
section
/-! DEFINITION. The parameters of 00_scope.md R8 to which the spec gives a value, and the fixed periods and addresses of the
devices. HBLANK_HDMA_CYCLES is 0 (R8), so an HBlank block has no cycles to add and no constant here. -/

namespace Sys2Proof.Machine

/-- SPEED_MULT (R8). -/
def speedMult : Nat := 1

/-- CPU_HZ (R8): cycles of T per second. -/
def cpuHz : Nat := 4194304 * speedMult

/-- "a CART event 3 seconds in the future" (65_cartridge.md R897). -/
def flushDelay : Nat := 3 * cpuHz

/-- IRQ_ENTRY_PRE_CYCLES (R8). -/
def irqEntryPreCycles : Nat := 12

/-- PULSE_DIVIDER_SCALE (R8). -/
def pulseDividerScale : Nat := 2

/-- The wave channel's divider scale (64_spu.md R835). -/
def waveDividerScale : Nat := 2

/-- MBC2_BANK_BIT8 (R8). -/
def mbc2BankBit8 : Bool := false

/-- WIDTH and HEIGHT (R8). -/
def screenWidth : Nat := 160

def screenHeight : Nat := 144

/-- HTOTAL and the number of lines (63_ppu.md R720). -/
def lineCycles : Nat := 456

def frameLines : Nat := 154

/-- The line_position of HBlank entry on a visible line (63_ppu.md R720, R730). -/
def hblankPosition : Nat := 252

/-- The line_position at which mode 2 ends (63_ppu.md R720). -/
def oamScanEnd : Nat := 80

/-- Cycles of T per audio frame (64_spu.md R801). -/
def frameCycles : Nat := 64

/-- OAM size, and so the length of an OAM DMA (62_dma_hdma.md R680). -/
def oamSize : Nat := 160

/-- Cycles of T per bus slot (00_scope.md R11). -/
def slotCycles : Nat := 4

/-- `f` applied `n` times. -/
def repeatN {α : Type} (f : α → α) : Nat → α → α
  | 0, x => x
  | n + 1, x => repeatN f n (f x)

end Sys2Proof.Machine
end

