-- ==== Sys2Proof/Machine/Memory.lean ====
section
/-! DEFINITION. One memory: a list of address and byte pairs in canonical form. Its laws are in Laws/Memory.lean. -/

namespace Sys2Proof.Machine

/-- What an address that a memory does not list reads as. The spec leaves INIT_MEM OPEN (00_scope.md R8).
DESIGN CHOICE (log 1): 0x00. Unsafe: the hardware may hold any byte there. -/
def Memory.unlisted : Byte := 0x00

/-- The byte at `a`. -/
def Memory.read : Memory → Nat → Byte
  | [], _ => Memory.unlisted
  | (k, v) :: rest, a => if k = a then v else Memory.read rest a

/-- `m` with the byte at `a` listed as `v`, in address order. -/
def Memory.insert (a : Nat) (v : Byte) : Memory → Memory
  | [] => [(a, v)]
  | (k, w) :: rest =>
    if a < k then (a, v) :: (k, w) :: rest
    else if k = a then (a, v) :: rest
    else (k, w) :: Memory.insert a v rest

/-- `m` with the address `a` not listed. -/
def Memory.erase (a : Nat) : Memory → Memory
  | [] => []
  | (k, w) :: rest => if k = a then Memory.erase a rest else (k, w) :: Memory.erase a rest

/-- `m` with the byte at `a` equal to `v`, kept canonical: writing what an unlisted address reads as removes the entry. -/
def Memory.write (m : Memory) (a : Nat) (v : Byte) : Memory :=
  if v = Memory.unlisted then m.erase a else m.insert a v

/-- The canonical form: addresses strictly rising, and no entry equal to what an unlisted address reads as. -/
abbrev Memory.wf (m : Memory) : Prop :=
  m.Pairwise (fun x y => x.1 < y.1) ∧ ∀ cell ∈ m, cell.2 ≠ Memory.unlisted

/-- Every listed address is below `n`. -/
abbrev Memory.below (n : Nat) (m : Memory) : Prop := ∀ cell ∈ m, cell.1 < n

/-- A memory from its bytes in address order, the first at `start`. -/
def Memory.ofBytes (start : Nat) : List Byte → Memory
  | [] => []
  | v :: rest =>
    if v = Memory.unlisted then Memory.ofBytes (start + 1) rest else (start, v) :: Memory.ofBytes (start + 1) rest

/-- The `n` bytes of a memory from `start` on, in address order. -/
def Memory.toBytes (m : Memory) (start n : Nat) : List Byte :=
  (List.range n).map fun i => m.read (start + i)

end Sys2Proof.Machine
end

