-- ==== Sys2Proof/Machine/Cartridge.lean ====
section
/-! DEFINITION. The cartridge: the ROM and RAM windows, the mapper commands of the five models, the MBC3 clock, the save flush
(65_cartridge.md R886 to R897), and the host's wall clock (66_input_host.md R958). -/

namespace Sys2Proof.Machine

/-! ## ROM window (R887) -/

/-- `RomBankRequest()` of R887. -/
def Cart.romBankRequest (c : Cart) : Nat :=
  match c.mapper with
  | .plain => 1
  | .mbc1 => if c.mode then c.romBank.toNat % 32 else c.romBank.toNat
  | .mbc2 => c.romBank.toNat
  | .mbc3 => c.romBank.toNat
  | .mbc5 => c.romBank.toNat

/-- Whether bank 0 in the switchable window reads as bank 1: MBC1, MBC2 and MBC3 (R887). -/
def Mapper.remapsBank0 : Mapper → Bool
  | .plain => false
  | .mbc1 => true
  | .mbc2 => true
  | .mbc3 => true
  | .mbc5 => false

/-- The bank at 0x4000: the request modulo ROM_BANKS, then the remap (R887, 90_conflicts.md C9). -/
def Cart.romBankAt4000 (c : Cart) : Nat :=
  let b := c.romBankRequest % c.romBanks
  if b = 0 ∧ c.mapper.remapsBank0 = true then 1 else b

/-- The ROM image offset of the bus address `n`, 0x0000..0x7FFF (R887). -/
def Cart.romIndex (c : Cart) (n : Nat) : Nat :=
  if n < 0x4000 then n else c.romBankAt4000 * 0x4000 + (n - 0x4000)

/-! ## External window (R888) -/

/-- What stands at an offset of the window 0xA000..0xBFFF. -/
inductive ExtLoc where
  | mbc2Ram (i : Nat)
  | rtc
  | ram (i : Nat)
  | absent
  deriving DecidableEq, Repr

/-- `RamBank()` of R888. -/
def Cart.ramBankAt (c : Cart) : Option Nat :=
  match c.mapper with
  | .plain => some 0
  | .mbc1 => some (if c.mode then c.ramBank.toNat else 0)
  | .mbc2 => some 0
  | .mbc3 => if c.ramSel.toNat ≤ 3 then some c.ramSel.toNat else none
  | .mbc5 => some c.ramBank.toNat

/-- Whether an MBC3 has an RTC register selected: `ram_sel` in 0x08..0x0C (R888). -/
def Cart.selectsRtc (c : Cart) : Bool :=
  c.mapper == .mbc3 && (8 ≤ c.ramSel.toNat && c.ramSel.toNat ≤ 12)

/-- The external RAM itself, modulo RAM_SIZE: the mirror of a small RAM and the reduction of a large bank (R888). -/
def Cart.ramLocate (c : Cart) (off : Nat) : ExtLoc :=
  if c.ramSize = 0 then .absent
  else
    match c.ramBankAt with
    | none => .absent
    | some b => .ram ((b * 0x2000 + off) % c.ramSize)

/-- The dispatch shared by R888 and R889. An RTC select on a cartridge without an RTC is absent (R888, D36). -/
def Cart.extLocate (c : Cart) (off : Nat) : ExtLoc :=
  if c.mapper = .mbc2 then .mbc2Ram (off % 512)
  else if c.selectsRtc then (if c.hasRtc then .rtc else .absent)
  else c.ramLocate off

/-- RTC register read: the snapshot, `ram_sel` 0x08..0x0C being S, M, H, DAYL, DAYH (R893). -/
def Rtc.readReg (r : Rtc) (sel : Nat) : Byte :=
  match sel with
  | 8 => r.s
  | 9 => r.m
  | 10 => r.h
  | 11 => r.dayl
  | _ => r.dayh

/-- `RamRead` (R888). Reads are not gated by `ram_enable`. -/
def extRead (s : State) (off : Nat) : Byte :=
  match s.cart.extLocate off with
  | .mbc2Ram i => 0xF0 ||| s.mem.mbc2Ram.read i
  | .rtc => s.cart.rtc.readReg s.cart.ramSel.toNat
  | .ram i => s.mem.cartRam.read i
  | .absent => 0xFF

/-! ## Wall clock (66_input_host.md R958) -/

/-- One reading of WALL_CLOCK: the host's next pending one, or else a free value; never below the reading before it.
DESIGN CHOICE (log 7). Safe. -/
def readWall (s : State) : Nat × State :=
  match s.io.wallQueue with
  | w :: ws =>
    let now := max w s.io.wallLast
    (now, { s with io := { s.io with wallQueue := ws, wallLast := now } })
  | [] =>
    let now := s.io.wallLast + Config.wallStep s.io.wallReads
    (now, { s with io := { s.io with wallLast := now, wallReads := s.io.wallReads + 1 } })

/-! ## RTC (R893) -/

/-- A machine with another RTC. -/
def State.setRtc (s : State) (r : Rtc) : State :=
  { s with cart := { s.cart with rtc := r } }

/-- The wall time the clock runs on, `halted ? halt_ts : WALL_CLOCK`, reading WALL_CLOCK only where it is used (R893). -/
def rtcNow (s : State) : Nat × State :=
  if s.cart.rtc.halted then (s.cart.rtc.haltTs, s) else readWall s

/-- The snapshot that `Latch()` takes of the logical time `t` (R893). `div` and `mod` round down, DEDUCED (log 9). -/
def Rtc.latchedAt (r : Rtc) (t : Int) : Rtc :=
  let days := t / 86400
  { r with
    s := BitVec.ofInt 8 (t % 60)
    m := BitVec.ofInt 8 (t / 60 % 60)
    h := BitVec.ofInt 8 (t / 3600 % 24)
    dayl := BitVec.ofInt 8 days
    dayh :=
      (r.dayh &&& 0x80) ||| (if 512 ≤ days then 0x80 else 0) ||| (if r.halted then 0x40 else 0)
        ||| BitVec.ofInt 8 (days / 256 % 2) }

/-- `Latch()`. A cartridge without an RTC has nothing to latch, DEDUCED (log 14). -/
def rtcLatch (s : State) : State :=
  if s.cart.hasRtc then
    let w := rtcNow s
    w.2.setRtc (w.2.cart.rtc.latchedAt ((w.1 : Int) - w.2.cart.rtc.base))
  else s

/-- The snapshot with register `sel` written, cut to the write masks 0x3F, 0x3F, 0x1F, 0xFF, 0xC1 (R893). -/
def Rtc.writeReg (r : Rtc) (sel : Nat) (v : Byte) : Rtc :=
  match sel with
  | 8 => { r with s := v &&& 0x3F }
  | 9 => { r with m := v &&& 0x3F }
  | 10 => { r with h := v &&& 0x1F }
  | 11 => { r with dayl := v }
  | _ => { r with dayh := v &&& 0xC1 }

/-- The time the snapshot shows, `t'` of R893. -/
def Rtc.shownTime (r : Rtc) : Nat :=
  r.s.toNat + 60 * r.m.toNat + 3600 * r.h.toNat
    + 86400 * (r.dayl.toNat + 256 * (r.dayh.getLsbD 0).toNat)

/-- An RTC register write (R893): edit the snapshot, halt or resume on a DAYH write, then re-derive `base`. -/
def rtcWrite (s : State) (v : Byte) : State :=
  let sel := s.cart.ramSel.toNat
  let r := s.cart.rtc.writeReg sel v
  if sel = 12 ∧ v.getLsbD 6 = true ∧ r.halted = false then
    let w := readWall s
    w.2.setRtc { r with halted := true, haltTs := w.1, base := (w.1 : Int) - r.shownTime }
  else if r.halted = true ∧ ¬(sel = 12 ∧ v.getLsbD 6 = false) then
    s.setRtc { r with base := (r.haltTs : Int) - r.shownTime }
  else
    let w := readWall s
    w.2.setRtc { r with halted := false, base := (w.1 : Int) - r.shownTime }

/-! ## External window writes (R889) and the save flush (R897) -/

/-- "On any RAM write set a dirty flag and schedule a CART event 3 seconds in the future" (R889). -/
def markDirty (s : State) : State :=
  { s with cart := { s.cart with dirty := true, flushAt := s.t + flushDelay } }

/-- `RamWrite` (R889). -/
def extWrite (s : State) (off : Nat) (v : Byte) : State :=
  if s.cart.ramEnable then
    match s.cart.extLocate off with
    | .mbc2Ram i => markDirty { s with mem := { s.mem with mbc2Ram := s.mem.mbc2Ram.write i (v &&& 0x0F) } }
    | .rtc => markDirty (rtcWrite s v)
    | .ram i => markDirty { s with mem := { s.mem with cartRam := s.mem.cartRam.write i v } }
    | .absent => s
  else s

/-- Append one sink call to the output trace (10_state.md R111). -/
def emit (o : Output) (s : State) : State :=
  { s with io := { s.io with trace := o :: s.io.trace } }

/-- `CartCycle` (R897) at the cycle that ends at `now`: "`T` inside `CartCycle` is the value after the current cycle". -/
def cartCycle (now : Nat) (s : State) : State :=
  if s.cart.dirty = true ∧ s.cart.flushAt ≤ now then
    emit (.saveFlush s.mem.cartRam s.mem.mbc2Ram s.cart.rtc) { s with cart := { s.cart with dirty := false } }
  else s

/-! ## Mapper commands (R890 to R894) -/

/-- "write with low nibble == 0xA unlocks RAM writes, anything else locks" (R891). -/
def unlocks (v : Byte) : Bool := (v &&& 0x0F) == 0x0A

/-- R891. -/
def Cart.writeMbc1 (c : Cart) (n : Nat) (v : Byte) : Cart :=
  if n < 0x2000 then { c with ramEnable := unlocks v }
  else if n < 0x4000 then
    { c with romBank := (c.romBank &&& 0x60) ||| (v.zeroExtend 9 &&& 0x1F) }
  else if n < 0x6000 then
    if c.mode then { c with ramBank := v.truncate 4 &&& 3 }
    else { c with romBank := (c.romBank &&& 0x1F) ||| ((v.zeroExtend 9 &&& 3) <<< 5) }
  else { c with mode := v.getLsbD 0 }

/-- R892. -/
def Cart.writeMbc2 (c : Cart) (n : Nat) (v : Byte) : Cart :=
  if n < 0x4000 then
    if mbc2BankBit8 = n.testBit 8 ∧ 0x2000 ≤ n then { c with romBank := v.zeroExtend 9 &&& 0x0F }
    else { c with ramEnable := unlocks v }
  else c

/-- R893, but for the latch. -/
def Cart.writeMbc3 (c : Cart) (n : Nat) (v : Byte) : Cart :=
  if n < 0x2000 then { c with ramEnable := unlocks v }
  else if n < 0x4000 then { c with romBank := v.zeroExtend 9 &&& 0x7F }
  else if n < 0x6000 then { c with ramSel := v.truncate 4 }
  else { c with rtc := { c.rtc with latchFlag := v.getLsbD 0 } }

/-- R894. -/
def Cart.writeMbc5 (c : Cart) (n : Nat) (v : Byte) : Cart :=
  if n < 0x2000 then { c with ramEnable := unlocks v }
  else if n < 0x3000 then { c with romBank := (c.romBank &&& 0x100) ||| v.zeroExtend 9 }
  else if n < 0x4000 then
    { c with romBank := (c.romBank &&& 0xFF) ||| ((v.zeroExtend 9 &&& 1) <<< 8) }
  else if n < 0x6000 then { c with ramBank := v.truncate 4 }
  else c

/-- A write of `v` to the bus address `n` in 0x0000..0x7FFF: "mapper commands, not data writes" (20_memory.md R154). An MBC3
latches its clock on a 0→1 transition before the flag takes the new value (R893). -/
def mapperWrite (s : State) (n : Nat) (v : Byte) : State :=
  match s.cart.mapper with
  | .plain => s
  | .mbc1 => { s with cart := s.cart.writeMbc1 n v }
  | .mbc2 => { s with cart := s.cart.writeMbc2 n v }
  | .mbc3 =>
    let s1 := if 0x6000 ≤ n ∧ s.cart.rtc.latchFlag = false ∧ v.getLsbD 0 = true then rtcLatch s else s
    { s1 with cart := s1.cart.writeMbc3 n v }
  | .mbc5 => { s with cart := s.cart.writeMbc5 n v }

end Sys2Proof.Machine
end

