-- ==== Sys2Proof/Machine/IoRead.lean ====
section
/-! DEFINITION. What a CPU read of an I/O register returns (10_state.md R42, R55 to R92). No read has a side effect
(20_memory.md R168). -/

namespace Sys2Proof.Machine

/-! ## Field accessors -/

/-- LCDC bits (R78). -/
def Ppu.lcdEnable (p : Ppu) : Bool := p.lcdc.getLsbD 7
def Ppu.winMap (p : Ppu) : Bool := p.lcdc.getLsbD 6
def Ppu.winEnable (p : Ppu) : Bool := p.lcdc.getLsbD 5
def Ppu.tileData (p : Ppu) : Bool := p.lcdc.getLsbD 4
def Ppu.bgMap (p : Ppu) : Bool := p.lcdc.getLsbD 3
def Ppu.objTall (p : Ppu) : Bool := p.lcdc.getLsbD 2
def Ppu.objEnable (p : Ppu) : Bool := p.lcdc.getLsbD 1
def Ppu.bgEnable (p : Ppu) : Bool := p.lcdc.getLsbD 0

/-- The current mode (63_ppu.md R721). -/
def Ppu.mode (p : Ppu) : Nat :=
  if p.lcdEnable = false then 0
  else if screenHeight ≤ p.ly then 1
  else if p.linePosition < oamScanEnd then 2
  else if p.linePosition < hblankPosition then 3
  else 0

/-- `LY == LYC` (R79). -/
def Ppu.coincidence (p : Ppu) : Bool := p.ly == p.lyc.toNat

/-- A bit as a byte with that bit at position `i`. -/
def bitAt (b : Bool) (i : Nat) : Byte := if b then 1#8 <<< i else 0

/-- STAT (63_ppu.md R738). -/
def Ppu.stat (p : Ppu) : Byte :=
  0x80 ||| bitAt p.statLyc 6 ||| bitAt p.statMode2 5 ||| bitAt p.statMode1 4 ||| bitAt p.statMode0 3
    ||| bitAt p.coincidence 2 ||| BitVec.ofNat 8 p.mode

/-- The shown value of BCPS or OCPS (63_ppu.md R753). -/
def paletteIndexByte (inc : Bool) (index : BitVec 6) : Byte := 0x40 ||| bitAt inc 7 ||| index.zeroExtend 8

/-- TAC's clock select: cycles per TIMA tick (61_timer.md R650). -/
def Timer.period (tm : Timer) : Nat :=
  match (tm.tac.extractLsb' 0 2).toNat with
  | 0 => 1024
  | 1 => 16
  | 2 => 64
  | _ => 256

/-- `started`, TAC bit 2 (61_timer.md R650). -/
def Timer.started (tm : Timer) : Bool := tm.tac.getLsbD 2

/-- The bank VBK shows (20_memory.md R156). -/
def vbank (s : State) : Nat := if s.gbcMode then s.ppu.vbk.toNat else 0

/-- The bank SVBK shows, 0 read as 1 (20_memory.md R156). -/
def wbank (s : State) : Nat :=
  if s.gbcMode then (if s.svbk = 0 then 1 else s.svbk.toNat) else 1

/-! ## P1 (66_input_host.md R951) -/

/-- Four buttons as four active-low lines. -/
def linesOf (b0 b1 b2 b3 : Bool) : Byte :=
  0x0F &&& ~~~(bitAt b0 0 ||| bitAt b1 1 ||| bitAt b2 2 ||| bitAt b3 3)

/-- `P1Read()`. -/
def p1Read (io : HostIo) : Byte :=
  let dpad := if io.sel.getLsbD 0 then 0x0F else linesOf io.pressed.right io.pressed.left io.pressed.up io.pressed.down
  let buttons := if io.sel.getLsbD 1 then 0x0F else linesOf io.pressed.a io.pressed.b io.pressed.select io.pressed.start
  0xC0 ||| (io.sel.zeroExtend 8 <<< 4) ||| (0x0F &&& dpad &&& buttons)

/-! ## Sound registers (R55, R62 to R77) -/

/-- NR52 (64_spu.md R810). -/
def Spu.nr52 (p : Spu) : Byte :=
  0x70 ||| bitAt p.master 7 ||| bitAt p.ch4.enabled 3 ||| bitAt p.ch3.enabled 2 ||| bitAt p.ch2.enabled 1
    ||| bitAt p.ch1.enabled 0

/-- The sound registers 0xFF10..0xFF2F by their offset in the I/O page; write-only fields read 1 (64_spu.md R816). -/
def Spu.read (p : Spu) (off : Nat) : Byte :=
  match off with
  | 0x10 => 0x80 ||| (p.sweep.time.zeroExtend 8 <<< 4) ||| bitAt p.sweep.dir 3 ||| p.sweep.shift.zeroExtend 8
  | 0x11 => 0x3F ||| (p.ch1.duty.zeroExtend 8 <<< 6)
  | 0x12 => p.ch1.env.reg
  | 0x14 => 0xBF ||| bitAt p.ch1.lenEnable 6
  | 0x16 => 0x3F ||| (p.ch2.duty.zeroExtend 8 <<< 6)
  | 0x17 => p.ch2.env.reg
  | 0x19 => 0xBF ||| bitAt p.ch2.lenEnable 6
  | 0x1A => 0x7F ||| bitAt p.ch3.dac 7
  | 0x1C => 0x9F ||| (p.ch3.volCode.zeroExtend 8 <<< 5)
  | 0x1E => 0xBF ||| bitAt p.ch3.lenEnable 6
  | 0x21 => p.ch4.env.reg
  | 0x22 => p.ch4.poly
  | 0x23 => 0xBF ||| bitAt p.ch4.lenEnable 6
  | 0x24 => p.nr50
  | 0x25 => p.nr51
  | 0x26 => p.nr52
  | _ => 0xFF

/-! ## The I/O page -/

/-- HDMA5 (62_dma_hdma.md R694). -/
def Hdma.readControl (d : Hdma) : Byte :=
  if d.active then BitVec.zeroExtend 8 (BitVec.ofNat 7 (d.remaining + 127))
  else 0x80 ||| d.field.zeroExtend 8

/-- The registers that GBC mode adds (R55; 0xFF where R55 says so); an unknown address in DMG mode (R92). -/
def ioReadGbc (s : State) (off : Nat) : Byte :=
  match off with
  | 0x4F => 0xFE ||| s.ppu.vbk.zeroExtend 8
  | 0x55 => s.hdma.readControl
  | 0x68 => paletteIndexByte s.ppu.bgInc s.ppu.bgIndex
  | 0x69 => s.mem.bgPal.read s.ppu.bgIndex.toNat
  | 0x6A => paletteIndexByte s.ppu.objInc s.ppu.objIndex
  | 0x6B => s.mem.objPal.read s.ppu.objIndex.toNat
  | 0x70 => 0xF8 ||| s.svbk.zeroExtend 8
  | _ => 0xFF

/-- The I/O page 0xFF00..0xFF7F by offset: the "read" column of R55, and 0xFF for an unknown address (R92). -/
def ioRead (s : State) (off : Nat) : Byte :=
  if 0x10 ≤ off ∧ off < 0x30 then s.spu.read off
  else if 0x30 ≤ off ∧ off < 0x40 then s.mem.wave.read (off - 0x30)
  else
    match off with
    | 0x00 => p1Read s.io
    | 0x01 => 0xFF
    | 0x02 => 0x00
    | 0x04 => hiByte s.timer.divider
    | 0x05 => s.timer.tima
    | 0x06 => s.timer.tma
    | 0x07 => 0xF8 ||| s.timer.tac.zeroExtend 8
    | 0x0F => 0xE0 ||| s.int.request.zeroExtend 8
    | 0x40 => s.ppu.lcdc
    | 0x41 => s.ppu.stat
    | 0x42 => s.ppu.scy
    | 0x43 => s.ppu.scx
    | 0x44 => BitVec.ofNat 8 s.ppu.ly
    | 0x45 => s.ppu.lyc
    | 0x46 => s.dma.last
    | 0x47 => s.ppu.bgp
    | 0x48 => s.ppu.obp0
    | 0x49 => s.ppu.obp1
    | 0x4A => s.ppu.wy
    | 0x4B => s.ppu.wx
    | _ => if s.gbcMode then ioReadGbc s off else 0xFF

end Sys2Proof.Machine
end

