-- ==== Sys2Proof/Machine/Bus.lean ====
section
/-! DEFINITION. The address map and the bus read (20_memory.md R150 to R164). The bus write is in Machine/BusWrite.lean: it can
start a bulk HDMA, which advances the devices. -/

namespace Sys2Proof.Machine

/-- What stands at a bus address, with the bank in force: a row of the table of R153, and the offset inside it. -/
inductive Loc where
  | rom (n : Nat)
  | vram (i : Nat)
  | ext (off : Nat)
  | wram (i : Nat)
  | oam (i : Nat)
  /-- 0xFEA0..0xFEFF (R159). -/
  | unmapped
  | io (off : Nat)
  | zp (i : Nat)
  | ie
  deriving DecidableEq, Repr

/-- The WRAM cell at an offset of the window 0xC000..0xDFFF: bank 0 fixed, then the bank of SVBK (R153, R156). -/
def wramIndex (s : State) (off : Nat) : Nat :=
  if off < 0x1000 then off else wbank s * 0x1000 + (off - 0x1000)

/-- The address map of R153; 0xE000..0xFDFF is the echo of 0xC000..0xDDFF (R157). -/
def locate (s : State) (a : Word) : Loc :=
  let n := a.toNat
  if n < 0x8000 then .rom n
  else if n < 0xA000 then .vram (vbank s * 0x2000 + (n - 0x8000))
  else if n < 0xC000 then .ext (n - 0xA000)
  else if n < 0xE000 then .wram (wramIndex s (n - 0xC000))
  else if n < 0xFE00 then .wram (wramIndex s (n - 0xE000))
  else if n < 0xFEA0 then .oam (n - 0xFE00)
  else if n < 0xFF00 then .unmapped
  else if n < 0xFF80 then .io (n - 0xFF00)
  else if n < 0xFFFF then .zp (n - 0xFF80)
  else .ie

/-- `BusRead` (R153): total on every address (R162), with no side effect (R168). -/
def busRead (s : State) (a : Word) : Byte :=
  match locate s a with
  | .rom n => s.mem.rom.read (s.cart.romIndex n)
  | .vram i => s.mem.vram.read i
  | .ext off => extRead s off
  | .wram i => s.mem.wram.read i
  | .oam i => s.mem.oam.read i
  | .unmapped => 0xFF
  | .io off => ioRead s off
  | .zp i => s.mem.zp.read i
  | .ie => s.int.enable

/-- Place a byte in the memory behind a bus address, as a load from outside the machine does: no time passes and no register is
written. Where no memory stands behind the address, nothing changes. -/
def poke (s : State) (a : Word) (v : Byte) : State :=
  match locate s a with
  | .rom n => { s with mem := { s.mem with rom := s.mem.rom.write (s.cart.romIndex n) v } }
  | .vram i => { s with mem := { s.mem with vram := s.mem.vram.write i v } }
  | .ext off =>
    match s.cart.extLocate off with
    | .mbc2Ram i => { s with mem := { s.mem with mbc2Ram := s.mem.mbc2Ram.write i (v &&& 0x0F) } }
    | .ram i => { s with mem := { s.mem with cartRam := s.mem.cartRam.write i v } }
    | .rtc => s
    | .absent => s
  | .wram i => { s with mem := { s.mem with wram := s.mem.wram.write i v } }
  | .oam i => { s with mem := { s.mem with oam := s.mem.oam.write i v } }
  | .unmapped => s
  | .io _ => s
  | .zp i => { s with mem := { s.mem with zp := s.mem.zp.write i v } }
  | .ie => s

/-- `RequestInterrupt(k)` (00_scope.md R11, 60_exceptions.md R602). -/
def requestInterrupt (k : Nat) (s : State) : State :=
  { s with int := { s.int with request := s.int.request ||| 1#5 <<< k } }

end Sys2Proof.Machine
end

