-- ==== Sys2Proof/Machine/CopyEngines.lean ====
section
/-! DEFINITION. OAM DMA and the HDMA block copy (62_dma_hdma.md). The bulk HDMA advances time, so it is in Machine/BusWrite.lean. -/

namespace Sys2Proof.Machine

/-! ## OAM DMA -/

/-- Whether the source page `v` is legal (R680): ROM, WRAM, and in GBC mode cartridge RAM. -/
def dmaLegal (gbc : Bool) (v : Byte) : Bool :=
  decide (v.toNat < 0x80) || (decide (0xC0 ≤ v.toNat) && decide (v.toNat ≤ 0xDF))
    || (gbc && (decide (0xA0 ≤ v.toNat) && decide (v.toNat ≤ 0xBF)))

/-- A write to the DMA register: start, restart or cancel (R680). -/
def dmaWrite (s : State) (v : Byte) : State :=
  if dmaLegal s.gbcMode v then
    { s with dma := { running := true, src := cat16 v 0, position := 0, phase := 0, last := v } }
  else { s with dma := { s.dma with last := v, running := false } }

/-- `DmaCycle` (R681). -/
def dmaCycle (s : State) : State :=
  if s.dma.running then
    if s.dma.phase + 1 = 4 then
      let v := busRead s (s.dma.src + BitVec.ofNat 16 s.dma.position)
      { s with
        mem := { s.mem with oam := s.mem.oam.write s.dma.position v }
        dma :=
          { s.dma with
            phase := 0
            position := s.dma.position + 1
            running := s.dma.position + 1 != oamSize } }
    else { s with dma := { s.dma with phase := s.dma.phase + 1 } }
  else s

/-! ## HDMA -/

/-- `HdmaCopyByte` (R692): through the bus into the current VRAM bank. -/
def hdmaCopyByte (s : State) : State :=
  let v := busRead s s.hdma.src
  { s with
    mem := { s.mem with vram := s.mem.vram.write (vbank s * 0x2000 + s.hdma.dst.toNat) v }
    hdma := { s.hdma with src := s.hdma.src + 1, dst := s.hdma.dst + 1 } }

/-- `HdmaBlock` (R693). -/
def hdmaBlock (s : State) : State :=
  let s1 := repeatN hdmaCopyByte 16 s
  if s1.hdma.remaining ≤ 1 then
    { s1 with hdma := { s1.hdma with remaining := 0, active := false, field := 0x7F } }
  else { s1 with hdma := { s1.hdma with remaining := s1.hdma.remaining - 1 } }

/-- Writes to HDMA1..HDMA4 (R690). -/
def hdmaAddrWrite (d : Hdma) (off : Nat) (v : Byte) : Hdma :=
  match off with
  | 0x51 => { d with src := cat16 v (loByte d.src) }
  | 0x52 => { d with src := cat16 (hiByte d.src) (v &&& 0xF0) }
  | 0x53 => { d with dst := v.extractLsb' 0 5 ++ d.dst.extractLsb' 0 8 }
  | 0x54 => { d with dst := d.dst.extractLsb' 8 5 ++ (v &&& 0xF0) }
  | _ => d

end Sys2Proof.Machine
end

