-- ==== Sys2Proof/Machine/Renderer.lean ====
section
/-! DEFINITION. The scanline renderer (63_ppu.md R741 to R755): one visible line from the state at the moment of the call. -/

namespace Sys2Proof.Machine

/-- A collected sprite: `y'` and `x'` are signed (R741). -/
structure Sprite where
  y : Int
  x : Int
  tile : Byte
  flags : Byte
  deriving DecidableEq, Repr

/-- Sprite height (R741). -/
def Ppu.objHeight (p : Ppu) : Nat := if p.objTall then 16 else 8

/-- Sprite `i` of OAM (10_state.md R47). -/
def oamSprite (oam : Memory) (i : Nat) : Sprite where
  y := ((oam.read (4 * i)).toNat : Int) - 16
  x := ((oam.read (4 * i + 1)).toNat : Int) - 8
  tile := oam.read (4 * i + 2)
  flags := oam.read (4 * i + 3)

/-- Whether a sprite covers line `ly`: `y' <= ly < y' + h` (R741). -/
def Sprite.coversLine (sp : Sprite) (h ly : Nat) : Bool :=
  decide (sp.y ≤ ly) && decide ((ly : Int) < sp.y + h)

/-- The first ten sprites in OAM order that cover the line, whatever their x (R741). -/
def lineSprites (s : State) (ly : Nat) : List Sprite :=
  (((List.range 40).map (oamSprite s.mem.oam)).filter fun sp => sp.coversLine s.ppu.objHeight ly).take 10

/-- `sp` put before the first sprite whose x is not smaller: a stable insertion. -/
def insertByX (sp : Sprite) : List Sprite → List Sprite
  | [] => [sp]
  | q :: rest => if sp.x ≤ q.x then sp :: q :: rest else q :: insertByX sp rest

/-- Stable sort by x ascending (R742). -/
def sortByX : List Sprite → List Sprite
  | [] => []
  | sp :: rest => insertByX sp (sortByX rest)

/-- The line's sprites in priority order: by x on DMG, in OAM order on color (R742). -/
def prioritySprites (s : State) (ly : Nat) : List Sprite :=
  if s.gbcMode then lineSprites s ly else sortByX (lineSprites s ly)

/-- `TilePixel` (R745): column 0 is the left one, bit 7. -/
def tilePixel (vram : Memory) (bank addr row col : Nat) : BitVec 2 :=
  let lo := vram.read (bank * 0x2000 + addr + 2 * row)
  let hi := vram.read (bank * 0x2000 + addr + 2 * row + 1)
  BitVec.ofBool (hi.getLsbD (7 - col)) ++ BitVec.ofBool (lo.getLsbD (7 - col))

/-- The tile data offset of a background or window tile: `t * 16`, or signed from 0x1000 (R744). -/
def bgTileAddr (p : Ppu) (tile : Byte) : Nat :=
  if p.tileData then tile.toNat * 16 else (0x1000 + tile.toInt * 16).toNat

/-- `MapPixel` (R744): the 2-bit value and the attribute byte, 0 in DMG mode (R748). -/
def mapPixel (s : State) (upperMap : Bool) (px py : Nat) : BitVec 2 × Byte :=
  let m := (if upperMap then 0x1C00 else 0x1800) + py / 8 * 32 + px / 8
  let tile := s.mem.vram.read m
  let attr : Byte := if s.gbcMode then s.mem.vram.read (0x2000 + m) else 0
  let bank := if s.gbcMode then (attr.getLsbD 3).toNat else 0
  let row := if attr.getLsbD 6 then 7 - py % 8 else py % 8
  let col := if attr.getLsbD 5 then 7 - px % 8 else px % 8
  (tilePixel s.mem.vram bank (bgTileAddr s.ppu tile) row col, attr)

/-- Where a pixel of the line comes from. -/
inductive PixelSource where
  /-- "else output white" (R743): value 0, attribute 0. -/
  | white
  | map (value : BitVec 2) (attr : Byte)
  | sprite (value : BitVec 2) (flags : Byte)
  deriving DecidableEq, Repr

/-- Background, window or white at (x, ly) (R743, R746, R747). -/
def backSource (s : State) (ly x : Nat) : PixelSource :=
  let wx : Int := (s.ppu.wx.toNat : Int) - 7
  if s.ppu.winEnable = true ∧ wx ≤ x ∧ s.ppu.wy.toNat ≤ ly then
    let p := mapPixel s s.ppu.winMap ((x : Int) - wx).toNat (ly - s.ppu.wy.toNat)
    .map p.1 p.2
  else if s.ppu.bgEnable then
    let p := mapPixel s s.ppu.bgMap ((x + s.ppu.scx.toNat) % 256) ((ly + s.ppu.scy.toNat) % 256)
    .map p.1 p.2
  else .white

/-- The 2-bit value and the attribute byte of what stands behind the sprites (R743). -/
def PixelSource.valueAttr : PixelSource → BitVec 2 × Byte
  | .white => (0, 0)
  | .map v a => (v, a)
  | .sprite v f => (v, f)

/-- `SpritePixel` (R750) of a sprite at screen (x, ly). -/
def spritePixel (s : State) (sp : Sprite) (ly x : Nat) : BitVec 2 :=
  let h := s.ppu.objHeight
  let dx := ((x : Int) - sp.x).toNat
  let dy := ((ly : Int) - sp.y).toNat
  let sx := if sp.flags.getLsbD 5 then 7 - dx else dx
  let sy := if sp.flags.getLsbD 6 then h - 1 - dy else dy
  let tile := if s.ppu.objTall then sp.tile &&& 0xFE else sp.tile
  let bank := if s.gbcMode then (sp.flags.getLsbD 3).toNat else 0
  tilePixel s.mem.vram bank (tile.toNat * 16 + 16 * (sy / 8)) (sy % 8) sx

/-- The first sprite of the list that shows at (x, ly) over a back pixel of value `back` (R749): it covers the column, is not
behind an opaque pixel, and is not transparent there. -/
def overlaySprite (s : State) (back : BitVec 2) (ly x : Nat) : List Sprite → Option PixelSource
  | [] => none
  | sp :: rest =>
    if sp.x ≤ (x : Int) ∧ (x : Int) < sp.x + 8 then
      if sp.flags.getLsbD 7 = true ∧ back ≠ 0 then overlaySprite s back ly x rest
      else
        let v := spritePixel s sp ly x
        if v = 0 then overlaySprite s back ly x rest else some (.sprite v sp.flags)
    else overlaySprite s back ly x rest

/-- The source of the pixel at (x, ly) (R743, R749). -/
def pixelSource (s : State) (sprites : List Sprite) (ly x : Nat) : PixelSource :=
  let back := backSource s ly x
  let va := back.valueAttr
  if s.ppu.objEnable = true ∧ (va.2.getLsbD 7 = false ∨ va.1 = 0) then
    (overlaySprite s va.1 ly x sprites).getD back
  else back

/-- The shade of value `v` under palette byte `p`: `(P >> (2v)) & 3` (R752). -/
def shade (p : Byte) (v : BitVec 2) : BitVec 2 := (p >>> (2 * v.toNat)).truncate 2

/-- Color (p, v) of a palette RAM (10_state.md R49). -/
def paletteColor (pal : Memory) (p v : Nat) : BitVec 15 :=
  (cat16 (pal.read (8 * p + 2 * v + 1)) (pal.read (8 * p + 2 * v))).truncate 15

/-- The shade of a pixel in DMG mode (R751, R752). -/
def dmgShade (p : Ppu) : PixelSource → BitVec 2
  | .white => 0
  | .map v _ => shade p.bgp v
  | .sprite v flags => shade (if flags.getLsbD 4 then p.obp1 else p.obp0) v

/-- The color of a pixel in GBC mode (R751, R754). -/
def gbcColor (mem : Memories) : PixelSource → BitVec 15
  | .white => 0x7FFF
  | .map v attr => paletteColor mem.bgPal (attr &&& 7).toNat v.toNat
  | .sprite v flags => paletteColor mem.objPal (flags &&& 7).toNat v.toNat

/-- `DrawLine(ly)` as the sink call it makes (R741, R755). -/
def lineOutput (s : State) (ly : Nat) : Output :=
  let sprites := prioritySprites s ly
  let sources := (List.range screenWidth).map (pixelSource s sprites ly)
  if s.gbcMode then .drawLineGbc ly (sources.map (gbcColor s.mem))
  else .drawLineDmg ly (sources.map (dmgShade s.ppu))

/-- A white line (R740, R751). -/
def whiteLine (gbc : Bool) (ly : Nat) : Output :=
  if gbc then .drawLineGbc ly (List.replicate screenWidth 0x7FFF)
  else .drawLineDmg ly (List.replicate screenWidth 0)

end Sys2Proof.Machine
end

