-- ==== Sys2Proof/Machine/PpuStep.lean ====
section
/-! DEFINITION. The PPU's one-cycle step and the LCDC write (63_ppu.md R730 to R740). -/

namespace Sys2Proof.Machine

/-- Request LCD_STAT if a condition holds: each of the four events calls on its own (R739). -/
def requestStatIf (b : Bool) (s : State) : State := if b then requestInterrupt 1 s else s

/-- `HBlankEntry` (R734): draw, then STAT mode 0, then the HDMA block. -/
def hblankEntry (s : State) : State :=
  let s1 := emit (lineOutput s s.ppu.ly) s
  let s2 := requestStatIf s1.ppu.statMode0 s1
  if s2.hdma.active = true ∧ s2.hdma.hblank = true then hdmaBlock s2 else s2

/-- `VBlankEntry` (R735). -/
def vblankEntry (s : State) : State :=
  emit .flip (requestStatIf s.ppu.statMode1 (requestInterrupt 0 s))

/-- The actions of a line end, in the order of R730 and R731. -/
def lineEnd (s : State) : State :=
  let s1 := { s with ppu := { s.ppu with linePosition := 0, ly := s.ppu.ly + 1 } }
  let s2 := if s1.ppu.ly = screenHeight then vblankEntry s1 else s1
  let s3 := if s2.ppu.ly = frameLines then { s2 with ppu := { s2.ppu with ly := 0 } } else s2
  let s4 := requestStatIf (s3.ppu.coincidence && s3.ppu.statLyc) s3
  requestStatIf (decide (s4.ppu.ly < screenHeight) && s4.ppu.statMode2) s4

/-- `PpuCycle` (R730). -/
def ppuCycle (s : State) : State :=
  if s.ppu.lcdEnable then
    let s1 := { s with ppu := { s.ppu with linePosition := s.ppu.linePosition + 1 } }
    let s2 := if s1.ppu.linePosition = hblankPosition ∧ s1.ppu.ly < screenHeight then hblankEntry s1 else s1
    if s2.ppu.linePosition = lineCycles then lineEnd s2 else s2
  else s

/-- The white lines `n`, `n + 1`, … sent when the LCD goes off (R740). -/
def blankLines (gbc : Bool) : Nat → Nat → State → State
  | _, 0, s => s
  | ly, n + 1, s => blankLines gbc (ly + 1) n (emit (whiteLine gbc ly) s)

/-- A write to LCDC (R740): on 1→0 the screen is blanked and LY and line_position are zeroed. -/
def lcdcWrite (s : State) (v : Byte) : State :=
  let wasOn := s.ppu.lcdEnable
  let s1 := { s with ppu := { s.ppu with lcdc := v } }
  if wasOn = true ∧ s1.ppu.lcdEnable = false then
    let s2 := blankLines s1.gbcMode 0 screenHeight s1
    { s2 with ppu := { s2.ppu with ly := 0, linePosition := 0 } }
  else s1

end Sys2Proof.Machine
end

