-- ==== Sys2Proof/Machine/SpuStep.lean ====
section
/-! DEFINITION. The SPU: its one-cycle step, the mixer, and the register writes (64_spu.md). A countdown holds the cycles left and
fires when it would reach 0; as a Nat it stops at 0 where the spec's integer could go below, and every such countdown is reloaded
or its channel is off (log 10). -/

namespace Sys2Proof.Machine

/-! ## Frequency dividers, sweep, envelope and length (R831 to R836) -/

/-- The pulse divider's reload value (R831). -/
def pulsePeriod (offset : BitVec 11) : Nat := pulseDividerScale * (0x800 - offset.toNat)

/-- The wave divider's reload value (R835). -/
def wavePeriod (offset : BitVec 11) : Nat := waveDividerScale * (0x800 - offset.toNat)

/-- `NoisePeriod()` (R836), from NR43: shift in bits 7..4, divisor code in bits 2..0 (10_state.md R71). -/
def noisePeriod (poly : Byte) : Nat :=
  let code := (poly &&& 7).toNat
  (if code = 0 then 4 else 8 * code) <<< ((poly >>> 4).toNat + 1)

/-- R831. -/
def Pulse.freqCycle (p : Pulse) : Pulse :=
  if p.freqTimer ≤ 1 then { p with phase := p.phase + 1, freqTimer := pulsePeriod p.offset }
  else { p with freqTimer := p.freqTimer - 1 }

/-- The offset a sweep event computes, before the overflow test (R832). -/
def Sweep.target (sw : Sweep) (offset : BitVec 11) : Nat :=
  let delta := (offset >>> sw.shift.toNat).toNat
  if sw.dir then offset.toNat - delta else offset.toNat + delta

/-- R832. -/
def sweepCycle (sw : Sweep) (p : Pulse) : Sweep × Pulse :=
  if sw.time = 0 then (sw, p)
  else if sw.timer ≤ 1 then
    ({ sw with timer := sw.time.toNat * 32768 },
      if 0x7FF < sw.target p.offset then { p with enabled := false }
      else { p with offset := BitVec.ofNat 11 (sw.target p.offset) })
  else ({ sw with timer := sw.timer - 1 }, p)

/-- The volume after an envelope step, saturating at 0 and 15 (R833). -/
def Envelope.nextVolume (e : Envelope) : BitVec 4 :=
  if e.dir then (if e.volume = 15 then 15 else e.volume + 1)
  else (if e.volume = 0 then 0 else e.volume - 1)

/-- R833. -/
def Envelope.cycle (e : Envelope) : Envelope :=
  if e.steps = 0 then e
  else if e.timer ≤ 1 then { e with timer := 65536 * e.steps.toNat, volume := e.nextVolume }
  else { e with timer := e.timer - 1 }

/-- The length counter after a cycle, and whether it expires in it (R834). -/
def lengthCycle (enable : Bool) (timer : Nat) : Nat × Bool :=
  if enable then (timer - 1, decide (timer ≤ 1)) else (timer, false)

/-- Envelope, then length: what follows the divider (and the sweep) in a pulse channel's cycle (R830). -/
def Pulse.tailCycle (p : Pulse) : Pulse :=
  let len := lengthCycle p.lenEnable p.lenTimer
  { p with env := p.env.cycle, lenTimer := len.1, enabled := p.enabled && !len.2 }

/-- `ChannelCycle(2)` (R830). -/
def Pulse.cycle (p : Pulse) : Pulse := p.freqCycle.tailCycle

/-- `ChannelCycle(1)`: divider, sweep, envelope, length (R830). -/
def sweepChannelCycle (sw : Sweep) (p : Pulse) : Sweep × Pulse :=
  let r := sweepCycle sw p.freqCycle
  (r.1, r.2.tailCycle)

/-- `ChannelCycle(3)` (R835, R834). -/
def Wave.cycle (w : Wave) : Wave :=
  let w1 :=
    if w.freqTimer ≤ 1 then { w with index := w.index + 1, freqTimer := wavePeriod w.offset }
    else { w with freqTimer := w.freqTimer - 1 }
  let len := lengthCycle w1.lenEnable w1.lenTimer
  { w1 with lenTimer := len.1, enabled := w1.enabled && !len.2 }

/-- The LFSR after a step: bit 0 ⊕ bit 1 into bit 14, and into bit 6 in 7-bit mode (R836). -/
def lfsrStep (width7 : Bool) (lfsr : BitVec 15) : BitVec 15 :=
  let x : BitVec 15 := (lfsr ^^^ (lfsr >>> 1)) &&& 1
  let r := (lfsr >>> 1) ||| (x <<< 14)
  if width7 then (r &&& ~~~(1#15 <<< 6)) ||| (x <<< 6) else r

/-- `ChannelCycle(4)` (R836, R833, R834). -/
def Noise.cycle (n : Noise) : Noise :=
  let n1 :=
    if n.freqTimer ≤ 1 then { n with freqTimer := noisePeriod n.poly, lfsr := lfsrStep (n.poly.getLsbD 3) n.lfsr }
    else { n with freqTimer := n.freqTimer - 1 }
  let len := lengthCycle n1.lenEnable n1.lenTimer
  { n1 with env := n1.env.cycle, lenTimer := len.1, enabled := n1.enabled && !len.2 }

/-! ## Amplitudes and the mixer (R800, R803, R820) -/

/-- The duty table (R803), phases 0 to 7. -/
def dutyTable (duty : BitVec 2) : List Nat :=
  match duty.toNat with
  | 0 => [0, 0, 0, 0, 0, 0, 0, 1]
  | 1 => [1, 0, 0, 0, 0, 0, 0, 1]
  | 2 => [1, 0, 0, 0, 0, 1, 1, 1]
  | _ => [0, 1, 1, 1, 1, 1, 1, 0]

def Pulse.amplitude (p : Pulse) : Nat :=
  if p.enabled then (dutyTable p.duty).getD p.phase.toNat 0 * p.env.volume.toNat else 0

/-- Sample `i` of wave RAM: the even ones in bits 7..4 (10_state.md R76). -/
def waveSample (ram : Memory) (i : Nat) : Nat :=
  let v := (ram.read (i / 2)).toNat
  if i % 2 = 0 then v / 16 else v % 16

def Wave.amplitude (w : Wave) (ram : Memory) : Nat :=
  if w.enabled = true ∧ w.volCode ≠ 0 then waveSample ram w.index.toNat >>> (w.volCode.toNat - 1) else 0

def Noise.amplitude (n : Noise) : Nat :=
  if n.enabled = true ∧ n.lfsr.getLsbD 0 = false then n.env.volume.toNat else 0

/-- A channel's amplitude where its NR51 bit routes it (10_state.md R74), else 0. -/
def routed (nr51 : Byte) (bit amp : Nat) : Nat := if nr51.getLsbD bit then amp else 0

/-- The sum of the routed amplitudes of one side, whose first NR51 bit is `bit`: 0 for right, 4 for left (R820). "While
`master` = 0, every channel amplitude is 0" (R810). -/
def Spu.side (p : Spu) (ram : Memory) (bit : Nat) : Nat :=
  if p.master then
    routed p.nr51 bit p.ch1.amplitude + routed p.nr51 (bit + 1) p.ch2.amplitude
      + routed p.nr51 (bit + 2) (p.ch3.amplitude ram) + routed p.nr51 (bit + 3) p.ch4.amplitude
  else 0

/-- `EmitFrame` (R837) as the sink call it makes: the stereo frame of R820. -/
def Spu.frame (p : Spu) (ram : Memory) : Output :=
  let volL := ((p.nr50 >>> 4) &&& 7).toNat
  let volR := (p.nr50 &&& 7).toNat
  .audioFrame (p.side ram 4 * (volL + 1) * Config.ampUnit) (p.side ram 0 * (volR + 1) * Config.ampUnit)

/-! ## The SPU step (R830) -/

/-- Every enabled channel's cycle, channels 1 to 4 (R830). -/
def Spu.channelsCycle (p : Spu) : Spu :=
  let r := if p.ch1.enabled then sweepChannelCycle p.sweep p.ch1 else (p.sweep, p.ch1)
  { p with
    ch1 := r.2
    sweep := r.1
    ch2 := if p.ch2.enabled then p.ch2.cycle else p.ch2
    ch3 := if p.ch3.enabled then p.ch3.cycle else p.ch3
    ch4 := if p.ch4.enabled then p.ch4.cycle else p.ch4 }

/-- `SpuCycle` (R830). -/
def spuCycle (s : State) : State :=
  let p := if s.spu.master then s.spu.channelsCycle else s.spu
  if p.samplePhase + 1 = frameCycles then
    let p1 := { p with samplePhase := 0 }
    emit (p1.frame s.mem.wave) { s with spu := p1 }
  else { s with spu := { p with samplePhase := p.samplePhase + 1 } }

/-! ## Register writes (R810 to R813) -/

/-- The DAC of a channel with an envelope: NRx2 bits 7..3 not all 0 (R813). -/
def Envelope.dacOn (e : Envelope) : Bool := (e.reg &&& 0xF8) != 0

/-- The envelope part of a trigger (R813). -/
def Envelope.trigger (e : Envelope) : Envelope :=
  { e with
    volume := e.reg.extractLsb' 4 4
    dir := e.reg.getLsbD 3
    steps := e.reg.extractLsb' 0 3
    timer := 65536 * (e.reg &&& 7).toNat }

/-- The length timer a trigger loads (R813, R834). -/
def lengthLoad (max t : Nat) : Nat := (max - t) * 16384

/-- `Trigger(1)` and `Trigger(2)`, but for the sweep (R813). -/
def Pulse.trigger (p : Pulse) : Pulse :=
  { p with
    enabled := p.env.dacOn
    lenTimer := lengthLoad 64 p.lenLoad.toNat
    env := p.env.trigger
    freqTimer := pulsePeriod p.offset }

/-- `Trigger(3)` (R813). -/
def Wave.trigger (w : Wave) : Wave :=
  { w with
    enabled := w.dac
    lenTimer := lengthLoad 256 w.lenLoad.toNat
    freqTimer := wavePeriod w.offset
    index := 0 }

/-- `Trigger(4)` (R813). -/
def Noise.trigger (n : Noise) : Noise :=
  { n with
    enabled := n.env.dacOn
    lenTimer := lengthLoad 64 n.lenLoad.toNat
    env := n.env.trigger
    lfsr := 0x7FFF
    freqTimer := noisePeriod n.poly }

/-- NRx1 of a pulse channel (10_state.md R63). -/
def Pulse.writeDuty (p : Pulse) (v : Byte) : Pulse :=
  { p with duty := v.extractLsb' 6 2, lenLoad := v.extractLsb' 0 6 }

/-- NRx2 of a pulse channel: a DAC switched off disables it (R811). -/
def Pulse.writeEnv (p : Pulse) (v : Byte) : Pulse :=
  let env := { p.env with reg := v }
  { p with env := env, enabled := p.enabled && env.dacOn }

/-- NRx3: period bits 7..0 (10_state.md R65). -/
def offsetLow (offset : BitVec 11) (v : Byte) : BitVec 11 := offset.extractLsb' 8 3 ++ v

/-- NRx4 bits 2..0: period bits 10..8 (10_state.md R66). -/
def offsetHigh (offset : BitVec 11) (v : Byte) : BitVec 11 := v.extractLsb' 0 3 ++ offset.extractLsb' 0 8

/-- NRx4 of a pulse channel, but for the sweep: the fields, then the trigger (R811). -/
def Pulse.writeControl (p : Pulse) (v : Byte) : Pulse :=
  let p1 := { p with offset := offsetHigh p.offset v, lenEnable := v.getLsbD 6 }
  if v.getLsbD 7 then p1.trigger else p1

/-- NR34 (R811). -/
def Wave.writeControl (w : Wave) (v : Byte) : Wave :=
  let w1 := { w with offset := offsetHigh w.offset v, lenEnable := v.getLsbD 6 }
  if v.getLsbD 7 then w1.trigger else w1

/-- NR42: a DAC switched off disables the channel (R811). -/
def Noise.writeEnv (n : Noise) (v : Byte) : Noise :=
  let env := { n.env with reg := v }
  { n with env := env, enabled := n.enabled && env.dacOn }

/-- NR44 (R811). -/
def Noise.writeControl (n : Noise) (v : Byte) : Noise :=
  let n1 := { n with lenEnable := v.getLsbD 6 }
  if v.getLsbD 7 then n1.trigger else n1

/-- NR52 (R810): on 1→0 every channel and every register NR10..NR51 is cleared. -/
def Spu.writeMaster (p : Spu) (v : Byte) : Spu :=
  if p.master = true ∧ v.getLsbD 7 = false then
    { p with
      master := false
      nr50 := 0
      nr51 := 0
      ch1 := Pulse.zero
      sweep := Sweep.zero
      ch2 := Pulse.zero
      ch3 := Wave.zero
      ch4 := Noise.zero }
  else { p with master := v.getLsbD 7 }

/-- A write to NR10..NR51 while the master is on, by offset in the I/O page (R811, R812). -/
def Spu.writeReg (p : Spu) (off : Nat) (v : Byte) : Spu :=
  match off with
  | 0x10 =>
    { p with
      sweep :=
        { p.sweep with time := v.extractLsb' 4 3, dir := v.getLsbD 3, shift := v.extractLsb' 0 3 } }
  | 0x11 => { p with ch1 := p.ch1.writeDuty v }
  | 0x12 => { p with ch1 := p.ch1.writeEnv v }
  | 0x13 => { p with ch1 := { p.ch1 with offset := offsetLow p.ch1.offset v } }
  | 0x14 =>
    { p with
      ch1 := p.ch1.writeControl v
      sweep := if v.getLsbD 7 then { p.sweep with timer := p.sweep.time.toNat * 32768 } else p.sweep }
  | 0x16 => { p with ch2 := p.ch2.writeDuty v }
  | 0x17 => { p with ch2 := p.ch2.writeEnv v }
  | 0x18 => { p with ch2 := { p.ch2 with offset := offsetLow p.ch2.offset v } }
  | 0x19 => { p with ch2 := p.ch2.writeControl v }
  | 0x1A => { p with ch3 := { p.ch3 with dac := v.getLsbD 7, enabled := p.ch3.enabled && v.getLsbD 7 } }
  | 0x1B => { p with ch3 := { p.ch3 with lenLoad := v } }
  | 0x1C => { p with ch3 := { p.ch3 with volCode := v.extractLsb' 5 2 } }
  | 0x1D => { p with ch3 := { p.ch3 with offset := offsetLow p.ch3.offset v } }
  | 0x1E => { p with ch3 := p.ch3.writeControl v }
  | 0x20 => { p with ch4 := { p.ch4 with lenLoad := v.extractLsb' 0 6 } }
  | 0x21 => { p with ch4 := p.ch4.writeEnv v }
  | 0x22 => { p with ch4 := { p.ch4 with poly := v } }
  | 0x23 => { p with ch4 := p.ch4.writeControl v }
  | 0x24 => { p with nr50 := v }
  | 0x25 => { p with nr51 := v }
  | _ => p

/-- A write to 0xFF10..0xFF2F: "while `master` = 0, writes to 0xFF10..0xFF25 are ignored" (R810). -/
def Spu.write (p : Spu) (off : Nat) (v : Byte) : Spu :=
  if off = 0x26 then p.writeMaster v
  else if p.master then p.writeReg off v
  else p

end Sys2Proof.Machine
end

