-- ==== Sys2Proof/Machine/TimerStep.lean ====
section
/-! DEFINITION. The timer's one-cycle step (61_timer.md R651, R652). -/

namespace Sys2Proof.Machine

/-- `TimerTick` (R652): the reload and the request happen in the cycle of the overflow. -/
def timerTick (s : State) : State :=
  if s.timer.tima = 0xFF then
    requestInterrupt 2 { s with timer := { s.timer with tima := s.timer.tma } }
  else { s with timer := { s.timer with tima := s.timer.tima + 1 } }

/-- `TimerCycle` (R651): a tick whenever the divider reaches a multiple of the period. -/
def timerCycle (s : State) : State :=
  let s1 := { s with timer := { s.timer with divider := s.timer.divider + 1 } }
  if s1.timer.started = true ∧ s1.timer.divider.toNat % s1.timer.period = 0 then timerTick s1 else s1

end Sys2Proof.Machine
end

