-- ==== Sys2Proof/Machine/Slot.lean ====
section
/-! DEFINITION. One bus slot: `Cycle()` (00_scope.md R11, 20_memory.md R152). It is the one operation that advances T. -/

namespace Sys2Proof.Machine

/-- `CART.advance(4)` in the slot that ends at `t` (65_cartridge.md R897). -/
def cartSlot (t : Nat) (s : State) : State :=
  cartCycle t (cartCycle (t - 1) (cartCycle (t - 2) (cartCycle (t - 3) s)))

/-- `Cycle()`: T, then each device for 4 cycles in the order PPU, DMA, TIMER, SPU, CART (R152). -/
def cycle (s : State) : State :=
  let s0 := { s with t := s.t + slotCycles }
  cartSlot s0.t
    (repeatN spuCycle slotCycles
      (repeatN timerCycle slotCycles
        (repeatN dmaCycle slotCycles
          (repeatN ppuCycle slotCycles s0))))

end Sys2Proof.Machine
end

