-- ==== Sys2Proof/Machine/BusWrite.lean ====
section
/-! DEFINITION. The bus write (20_memory.md R154): the "write" column of 10_state.md R55 and each register's behaviour rule. -/

namespace Sys2Proof.Machine

/-! ## HDMA5 (62_dma_hdma.md R691, R692) -/

/-- `HdmaBulk` (R692): every byte first, then 2 cycles a byte, 4 to a slot. -/
def hdmaBulk (s : State) : State :=
  let n := s.hdma.remaining * 16
  let s1 := repeatN hdmaCopyByte n s
  repeatN cycle (n / 2) { s1 with hdma := { s1.hdma with remaining := 0, active := false, field := 0x7F } }

/-- `Hdma5Write` (R691). -/
def hdma5Write (s : State) (v : Byte) : State :=
  if s.hdma.active = true ∧ s.hdma.hblank = true ∧ v.getLsbD 7 = false then
    { s with hdma := { s.hdma with active := false, field := BitVec.ofNat 7 (s.hdma.remaining + 127) } }
  else
    let d := { s.hdma with remaining := (v.extractLsb' 0 7).toNat + 1, hblank := v.getLsbD 7 }
    if v.getLsbD 7 then { s with hdma := { d with active := true } } else hdmaBulk { s with hdma := d }

/-! ## I/O page -/

/-- The registers that GBC mode adds. -/
def ioWriteGbc (s : State) (off : Nat) (v : Byte) : State :=
  match off with
  | 0x4F => { s with ppu := { s.ppu with vbk := v.extractLsb' 0 1 } }
  | 0x51 => { s with hdma := hdmaAddrWrite s.hdma 0x51 v }
  | 0x52 => { s with hdma := hdmaAddrWrite s.hdma 0x52 v }
  | 0x53 => { s with hdma := hdmaAddrWrite s.hdma 0x53 v }
  | 0x54 => { s with hdma := hdmaAddrWrite s.hdma 0x54 v }
  | 0x55 => hdma5Write s v
  | 0x68 => { s with ppu := { s.ppu with bgIndex := v.extractLsb' 0 6, bgInc := v.getLsbD 7 } }
  | 0x69 =>
    { s with
      mem := { s.mem with bgPal := s.mem.bgPal.write s.ppu.bgIndex.toNat v }
      ppu := { s.ppu with bgIndex := if s.ppu.bgInc then s.ppu.bgIndex + 1 else s.ppu.bgIndex } }
  | 0x6A => { s with ppu := { s.ppu with objIndex := v.extractLsb' 0 6, objInc := v.getLsbD 7 } }
  | 0x6B =>
    { s with
      mem := { s.mem with objPal := s.mem.objPal.write s.ppu.objIndex.toNat v }
      ppu := { s.ppu with objIndex := if s.ppu.objInc then s.ppu.objIndex + 1 else s.ppu.objIndex } }
  | 0x70 => { s with svbk := v.extractLsb' 0 3 }
  | _ => s

/-- STAT bits 6..3 (63_ppu.md R738). -/
def statWrite (p : Ppu) (v : Byte) : Ppu :=
  { p with
    statLyc := v.getLsbD 6
    statMode2 := v.getLsbD 5
    statMode1 := v.getLsbD 4
    statMode0 := v.getLsbD 3 }

/-- A write to the I/O page by offset. SB, SC, LY and an unknown address ignore it (10_state.md R57, R81, R92). -/
def ioWrite (s : State) (off : Nat) (v : Byte) : State :=
  if 0x10 ≤ off ∧ off < 0x30 then { s with spu := s.spu.write off v }
  else if 0x30 ≤ off ∧ off < 0x40 then
    { s with mem := { s.mem with wave := s.mem.wave.write (off - 0x30) v } }
  else
    match off with
    | 0x00 => { s with io := { s.io with sel := v.extractLsb' 4 2 } }
    | 0x04 => { s with timer := { s.timer with divider := 0 } }
    | 0x05 => { s with timer := { s.timer with tima := v } }
    | 0x06 => { s with timer := { s.timer with tma := v } }
    | 0x07 => { s with timer := { s.timer with tac := v.extractLsb' 0 3 } }
    | 0x0F => { s with int := { s.int with request := v.extractLsb' 0 5 } }
    | 0x40 => lcdcWrite s v
    | 0x41 => { s with ppu := statWrite s.ppu v }
    | 0x42 => { s with ppu := { s.ppu with scy := v } }
    | 0x43 => { s with ppu := { s.ppu with scx := v } }
    | 0x45 => { s with ppu := { s.ppu with lyc := v } }
    | 0x46 => dmaWrite s v
    | 0x47 => { s with ppu := { s.ppu with bgp := v } }
    | 0x48 => { s with ppu := { s.ppu with obp0 := v } }
    | 0x49 => { s with ppu := { s.ppu with obp1 := v } }
    | 0x4A => { s with ppu := { s.ppu with wy := v } }
    | 0x4B => { s with ppu := { s.ppu with wx := v } }
    | _ => if s.gbcMode then ioWriteGbc s off v else s

/-! ## The bus -/

/-- `BusWrite` (R154), on the ranges of `locate`. -/
def busWrite (s : State) (a : Word) (v : Byte) : State :=
  match locate s a with
  | .rom n => mapperWrite s n v
  | .vram i => { s with mem := { s.mem with vram := s.mem.vram.write i v } }
  | .ext off => extWrite s off v
  | .wram i => { s with mem := { s.mem with wram := s.mem.wram.write i v } }
  | .oam i => { s with mem := { s.mem with oam := s.mem.oam.write i v } }
  | .unmapped => s
  | .io off => ioWrite s off v
  | .zp i => { s with mem := { s.mem with zp := s.mem.zp.write i v } }
  | .ie => { s with int := { s.int with enable := v } }

end Sys2Proof.Machine
end

