-- ==== Sys2Proof/WellFormed.lean ====
section
/-! DEFINITION. Which terms of Instr stand for an instruction of the machine. Registers, pairs, conditions and 3-bit indexes
cannot be out of range by their types, so one check is left. -/

namespace Sys2Proof

/-- The eleven undefined unprefixed opcodes (30_encoding.md R210). -/
def illegalOpcodes : List Byte :=
  [0xD3, 0xDB, 0xDD, 0xE3, 0xE4, 0xEB, 0xEC, 0xED, 0xF4, 0xFC, 0xFD]

/-- A term is well formed when it is an instruction of the maps of R207 and R208: an `illegal` carries one of the eleven
undefined opcodes. -/
def Instr.wf : Instr → Bool
  | .illegal op => illegalOpcodes.contains op
  | _ => true

end Sys2Proof
end

