-- ==== Sys2Proof/Decode.lean ====
section
/-! DEFINITION. The decoder and the encoder, both written from the opcode maps of 30_encoding.md R200 to R211. -/

namespace Sys2Proof

/-! ## Field codes -/

/-- The register an r8 code names; code 6 is the byte at HL (R202). -/
def r8Of : Nat → Option R8
  | 0 => some .b
  | 1 => some .c
  | 2 => some .d
  | 3 => some .e
  | 4 => some .h
  | 5 => some .l
  | 7 => some .a
  | _ => none

/-- The first pair table of R203. -/
def r16Of : Nat → R16
  | 0 => .bc
  | 1 => .de
  | 2 => .hl
  | _ => .sp

/-- The second pair table of R203. -/
def r16qOf : Nat → R16q
  | 0 => .bc
  | 1 => .de
  | 2 => .hl
  | _ => .af

/-- The condition codes of R204. -/
def condOf : Nat → Cond
  | 0 => .nz
  | 1 => .z
  | 2 => .nc
  | _ => .c

/-- The eight two-operand ALU operations by their code, register or (HL) operand (R360). -/
def aluOf (o : Nat) (src : Option R8) : Instr :=
  match o, src with
  | 0, some r => .addR r
  | 0, none => .addHl
  | 1, some r => .adcR r
  | 1, none => .adcHl
  | 2, some r => .subR r
  | 2, none => .subHl
  | 3, some r => .sbcR r
  | 3, none => .sbcHl
  | 4, some r => .andR r
  | 4, none => .andHl
  | 5, some r => .xorR r
  | 5, none => .xorHl
  | 6, some r => .orR r
  | 6, none => .orHl
  | _, some r => .cpR r
  | _, none => .cpHl

/-- The eight two-operand ALU operations with an immediate (R360). -/
def aluNOf (o : Nat) (n : Byte) : Instr :=
  match o with
  | 0 => .addN n
  | 1 => .adcN n
  | 2 => .subN n
  | 3 => .sbcN n
  | 4 => .andN n
  | 5 => .xorN n
  | 6 => .orN n
  | _ => .cpN n

/-- The CB rotates and shifts by their code (R424). -/
def rotOf (o : Nat) (src : Option R8) : Instr :=
  match o, src with
  | 0, some r => .rlcR r
  | 0, none => .rlcHl
  | 1, some r => .rrcR r
  | 1, none => .rrcHl
  | 2, some r => .rlR r
  | 2, none => .rlHl
  | 3, some r => .rrR r
  | 3, none => .rrHl
  | 4, some r => .slaR r
  | 4, none => .slaHl
  | 5, some r => .sraR r
  | 5, none => .sraHl
  | 6, some r => .swapR r
  | 6, none => .swapHl
  | _, some r => .srlR r
  | _, none => .srlHl

/-- The `x`, `y` and `z` fields of an opcode byte: bits 7:6, 5:3 and 2:0 (R201). -/
def fieldX (op : Byte) : Nat := op.toNat / 64

def fieldY (op : Byte) : Nat := op.toNat / 8 % 8

def fieldZ (op : Byte) : Nat := op.toNat % 8

/-! ## The decoder -/

/-- The CB-prefixed map (R208): every second byte is an instruction. -/
def decodeCb (op2 : Byte) : Instr :=
  let y := fieldY op2
  let r := r8Of (fieldZ op2)
  let b : Index3 := BitVec.ofNat 3 y
  match fieldX op2, r with
  | 0, _ => rotOf y r
  | 1, some r => .bitR b r
  | 1, none => .bitHl b
  | 2, some r => .resR b r
  | 2, none => .resHl b
  | _, some r => .setR b r
  | _, none => .setHl b

/-- The quarter 0x00..0x3F of the map of R207. -/
def decodeX0 (y z : Nat) (b1 : Byte) (n16 : Word) : Instr :=
  match z with
  | 0 =>
    match y with
    | 0 => .nop
    | 1 => .ldN16Sp n16
    | 2 => .stop
    | 3 => .jr b1
    | _ => .jrCc (condOf (y - 4)) b1
  | 1 => if y % 2 = 0 then .ldRrN16 (r16Of (y / 2)) n16 else .addHlRr (r16Of (y / 2))
  | 2 =>
    match y with
    | 0 => .ldBcA
    | 1 => .ldABc
    | 2 => .ldDeA
    | 3 => .ldADe
    | 4 => .ldHliA
    | 5 => .ldAHli
    | 6 => .ldHldA
    | _ => .ldAHld
  | 3 => if y % 2 = 0 then .incRr (r16Of (y / 2)) else .decRr (r16Of (y / 2))
  | 4 =>
    match r8Of y with
    | some r => .incR r
    | none => .incHl
  | 5 =>
    match r8Of y with
    | some r => .decR r
    | none => .decHl
  | 6 =>
    match r8Of y with
    | some r => .ldRN r b1
    | none => .ldHlN b1
  | _ =>
    match y with
    | 0 => .rlca
    | 1 => .rrca
    | 2 => .rla
    | 3 => .rra
    | 4 => .daa
    | 5 => .cpl
    | 6 => .scf
    | _ => .ccf

/-- The quarter 0x40..0x7F of the map of R207: loads, and HALT where both codes are 6 (R300, R502). -/
def decodeX1 (y z : Nat) : Instr :=
  match r8Of y, r8Of z with
  | some dst, some src => .ldRR dst src
  | some dst, none => .ldRHl dst
  | none, some src => .ldHlR src
  | none, none => .halt

/-- The quarter 0xC0..0xFF of the map of R207. -/
def decodeX3 (op : Byte) (y z : Nat) (b1 : Byte) (n16 : Word) : Instr :=
  match z with
  | 0 =>
    match y with
    | 4 => .ldhNA b1
    | 5 => .addSpE b1
    | 6 => .ldhAN b1
    | 7 => .ldHlSpE b1
    | _ => .retCc (condOf y)
  | 1 =>
    match y with
    | 0 => .popRr .bc
    | 1 => .ret
    | 2 => .popRr .de
    | 3 => .reti
    | 4 => .popRr .hl
    | 5 => .jpHl
    | 6 => .popAf
    | _ => .ldSpHl
  | 2 =>
    match y with
    | 4 => .ldCA
    | 5 => .ldN16A n16
    | 6 => .ldAC
    | 7 => .ldAN16 n16
    | _ => .jpCc (condOf y) n16
  | 3 =>
    match y with
    | 0 => .jp n16
    | 1 => decodeCb b1
    | 6 => .di
    | 7 => .ei
    | _ => .illegal op
  | 4 => if y < 4 then .callCc (condOf y) n16 else .illegal op
  | 5 =>
    if y % 2 = 0 then .pushRr (r16qOf (y / 2))
    else if y = 1 then .call n16
    else .illegal op
  | 6 => aluNOf y b1
  | _ => .rst (BitVec.ofNat 3 y)

/-- The instruction that an opcode byte and the operand bytes after it name (R211, R212: one total function). An operand byte
the format does not have is not looked at. For 0xCB, `b1` is the second opcode byte. -/
def decodeOp (op b1 b2 : Byte) : Instr :=
  let y := fieldY op
  let z := fieldZ op
  let n16 : Word := cat16 b2 b1
  match fieldX op with
  | 0 => decodeX0 y z b1 n16
  | 1 => decodeX1 y z
  | 2 => aluOf y (r8Of z)
  | _ => decodeX3 op y z b1 n16

/-- How many bytes follow the opcode byte (R200, R206): the first byte alone decides. For 0xCB it is the second opcode byte. -/
def operandBytes (op : Byte) : Nat :=
  let y := fieldY op
  match fieldX op, fieldZ op with
  | 0, 0 => if y = 1 then 2 else if 3 ≤ y then 1 else 0
  | 0, 1 => if y % 2 = 0 then 2 else 0
  | 0, 6 => 1
  | 3, 0 => if 4 ≤ y then 1 else 0
  | 3, 2 => if y < 4 ∨ y = 5 ∨ y = 7 then 2 else 0
  | 3, 3 => if y = 0 then 2 else if y = 1 then 1 else 0
  | 3, 4 => if y < 4 then 2 else 0
  | 3, 5 => if y = 1 then 2 else 0
  | 3, 6 => 1
  | _, _ => 0

/-- Why a list of bytes is no instruction: every opcode is an instruction, the prefix or an illegal opcode (R211), so the one
way is that the list ends too early. -/
inductive DecodeError where
  | truncated
  deriving DecidableEq, Repr

/-- The instruction at the head of a list of bytes, and the bytes after it. The byte 0xCB with nothing after it is the row
PREFIX_CB; with a byte after it, it is that byte's row of the CB map (R501). -/
def decode (bytes : List Byte) : Except DecodeError (Instr × List Byte) :=
  match bytes with
  | [] => .error .truncated
  | op :: rest =>
    if op = 0xCB ∧ rest = [] then .ok (.prefixCb, [])
    else
      match operandBytes op, rest with
      | 0, rest => .ok (decodeOp op 0 0, rest)
      | 1, b1 :: rest => .ok (decodeOp op b1 0, rest)
      | 2, b1 :: b2 :: rest => .ok (decodeOp op b1 b2, rest)
      | _, _ => .error .truncated

/-! ## The encoder -/

/-- The code of a register (R202). -/
def R8.code : R8 → Nat
  | .b => 0
  | .c => 1
  | .d => 2
  | .e => 3
  | .h => 4
  | .l => 5
  | .a => 7

/-- The code of a pair in the first table of R203. -/
def R16.code : R16 → Nat
  | .bc => 0
  | .de => 1
  | .hl => 2
  | .sp => 3

/-- The code of a pair in the second table of R203. -/
def R16q.code : R16q → Nat
  | .bc => 0
  | .de => 1
  | .hl => 2
  | .af => 3

/-- The code of a pair POP rr writes (R335). -/
def R16p.code : R16p → Nat
  | .bc => 0
  | .de => 1
  | .hl => 2

/-- The code of a condition (R204). -/
def Cond.code : Cond → Nat
  | .nz => 0
  | .z => 1
  | .nc => 2
  | .c => 3

/-- An opcode byte from its fields x, y and z (R201). -/
def opByte (x y z : Nat) : Byte := BitVec.ofNat 8 (64 * x + 8 * y + z)

/-- A 16-bit immediate in the instruction stream, low byte first (R205). -/
def n16Bytes (v : Word) : List Byte := [loByte v, hiByte v]

/-- The bytes of an instruction, from the "Encoding" line of its rule. -/
def encode : Instr → List Byte
  | .ldRR dst src => [opByte 1 dst.code src.code]
  | .ldRN dst n => [opByte 0 dst.code 6, n]
  | .ldRHl dst => [opByte 1 dst.code 6]
  | .ldHlR src => [opByte 1 6 src.code]
  | .ldHlN n => [0x36, n]
  | .ldABc => [0x0A]
  | .ldADe => [0x1A]
  | .ldBcA => [0x02]
  | .ldDeA => [0x12]
  | .ldAN16 a => 0xFA :: n16Bytes a
  | .ldN16A a => 0xEA :: n16Bytes a
  | .ldhAN n => [0xF0, n]
  | .ldhNA n => [0xE0, n]
  | .ldAC => [0xF2]
  | .ldCA => [0xE2]
  | .ldAHli => [0x2A]
  | .ldAHld => [0x3A]
  | .ldHliA => [0x22]
  | .ldHldA => [0x32]
  | .ldRrN16 p v => opByte 0 (2 * p.code) 1 :: n16Bytes v
  | .ldN16Sp a => 0x08 :: n16Bytes a
  | .ldSpHl => [0xF9]
  | .ldHlSpE e => [0xF8, e]
  | .pushRr q => [opByte 3 (2 * q.code) 5]
  | .popRr q => [opByte 3 (2 * q.code) 1]
  | .popAf => [0xF1]
  | .addR r => [opByte 2 0 r.code]
  | .addHl => [0x86]
  | .addN n => [0xC6, n]
  | .adcR r => [opByte 2 1 r.code]
  | .adcHl => [0x8E]
  | .adcN n => [0xCE, n]
  | .subR r => [opByte 2 2 r.code]
  | .subHl => [0x96]
  | .subN n => [0xD6, n]
  | .sbcR r => [opByte 2 3 r.code]
  | .sbcHl => [0x9E]
  | .sbcN n => [0xDE, n]
  | .andR r => [opByte 2 4 r.code]
  | .andHl => [0xA6]
  | .andN n => [0xE6, n]
  | .xorR r => [opByte 2 5 r.code]
  | .xorHl => [0xAE]
  | .xorN n => [0xEE, n]
  | .orR r => [opByte 2 6 r.code]
  | .orHl => [0xB6]
  | .orN n => [0xF6, n]
  | .cpR r => [opByte 2 7 r.code]
  | .cpHl => [0xBE]
  | .cpN n => [0xFE, n]
  | .incR dst => [opByte 0 dst.code 4]
  | .decR dst => [opByte 0 dst.code 5]
  | .incHl => [0x34]
  | .decHl => [0x35]
  | .daa => [0x27]
  | .cpl => [0x2F]
  | .scf => [0x37]
  | .ccf => [0x3F]
  | .addHlRr p => [opByte 0 (2 * p.code + 1) 1]
  | .incRr p => [opByte 0 (2 * p.code) 3]
  | .decRr p => [opByte 0 (2 * p.code + 1) 3]
  | .addSpE e => [0xE8, e]
  | .rlca => [0x07]
  | .rrca => [0x0F]
  | .rla => [0x17]
  | .rra => [0x1F]
  | .rlcR r => [0xCB, opByte 0 0 r.code]
  | .rlcHl => [0xCB, 0x06]
  | .rrcR r => [0xCB, opByte 0 1 r.code]
  | .rrcHl => [0xCB, 0x0E]
  | .rlR r => [0xCB, opByte 0 2 r.code]
  | .rlHl => [0xCB, 0x16]
  | .rrR r => [0xCB, opByte 0 3 r.code]
  | .rrHl => [0xCB, 0x1E]
  | .slaR r => [0xCB, opByte 0 4 r.code]
  | .slaHl => [0xCB, 0x26]
  | .sraR r => [0xCB, opByte 0 5 r.code]
  | .sraHl => [0xCB, 0x2E]
  | .swapR r => [0xCB, opByte 0 6 r.code]
  | .swapHl => [0xCB, 0x36]
  | .srlR r => [0xCB, opByte 0 7 r.code]
  | .srlHl => [0xCB, 0x3E]
  | .bitR b r => [0xCB, opByte 1 b.toNat r.code]
  | .bitHl b => [0xCB, opByte 1 b.toNat 6]
  | .resR b r => [0xCB, opByte 2 b.toNat r.code]
  | .resHl b => [0xCB, opByte 2 b.toNat 6]
  | .setR b r => [0xCB, opByte 3 b.toNat r.code]
  | .setHl b => [0xCB, opByte 3 b.toNat 6]
  | .jp a => 0xC3 :: n16Bytes a
  | .jpCc cc a => opByte 3 cc.code 2 :: n16Bytes a
  | .jpHl => [0xE9]
  | .jr e => [0x18, e]
  | .jrCc cc e => [opByte 0 (4 + cc.code) 0, e]
  | .call a => 0xCD :: n16Bytes a
  | .callCc cc a => opByte 3 cc.code 4 :: n16Bytes a
  | .ret => [0xC9]
  | .retCc cc => [opByte 3 cc.code 0]
  | .reti => [0xD9]
  | .rst t => [opByte 3 t.toNat 7]
  | .nop => [0x00]
  | .prefixCb => [0xCB]
  | .halt => [0x76]
  | .stop => [0x10]
  | .di => [0xF3]
  | .ei => [0xFB]
  | .illegal op => [op]

/-! ## The opcode table's numbers -/

/-- The bytes, in fetch order, of an instruction given as a number of spec/opcode_table.json. The table writes a CB-prefixed row
as 16 bits with 0xCB in bits 15..8 and the second byte in bits 7..0 (30_encoding.md: "first byte most significant: a CB-prefixed
row is 16 bits, 0xCB then the second byte"). Every other row is one opcode byte, in bits 7..0. A number of more than 8 bits
whose bits 15..8 are not 0xCB is read with its first byte in bits 7..0. Operand bytes the number does not give are 0.
DEDUCED (log 5). Safe. -/
def tableBytes (nbits w : Nat) : List Byte :=
  if 8 < nbits ∧ w / 256 % 256 = 0xCB then [0xCB, BitVec.ofNat 8 w, 0]
  else
    [BitVec.ofNat 8 w, if 8 < nbits then BitVec.ofNat 8 (w / 256) else 0,
      if 16 < nbits then BitVec.ofNat 8 (w / 65536) else 0]

/-- What the decoder reads from such a number. The row PREFIX_CB is the one byte 0xCB, and no byte of it is left to be 0. -/
def decodeTableWord (nbits w : Nat) : Option Instr :=
  let bytes := tableBytes nbits w
  match decode (if nbits ≤ 8 ∧ bytes.head? = some 0xCB then [0xCB] else bytes) with
  | .ok (i, _) => some i
  | .error _ => none

end Sys2Proof
end

