-- ==== Sys2Proof/Machine/Operands.lean ====
section
/-! DEFINITION. The operand forms: the registers and pairs an instruction names, F as a byte, the conditions, the displacement
and the high page (10_state.md R30 to R32, 30_encoding.md R202 to R205). -/

namespace Sys2Proof.Machine

/-! ## F as a byte (10_state.md R32) -/

/-- `cat(Z,N,H,C) << 4`. -/
def Flags.toByte (f : Flags) : Byte :=
  BitVec.ofBool f.z ++ BitVec.ofBool f.n ++ BitVec.ofBool f.h ++ BitVec.ofBool f.c ++ (0#4)

/-- A write of F as a byte: the low nibble is dropped. -/
def Flags.ofByte (v : Byte) : Flags where
  z := v.getLsbD 7
  n := v.getLsbD 6
  h := v.getLsbD 5
  c := v.getLsbD 4

/-! ## 8-bit registers (R30) -/

/-- `R8[r]`. -/
def Cpu.get8 (c : Cpu) : R8 → Byte
  | .a => c.a
  | .b => c.b
  | .c => c.c
  | .d => c.d
  | .e => c.e
  | .h => c.h
  | .l => c.l

/-- `R8[r] <- v`. -/
def Cpu.set8 (c : Cpu) (r : R8) (v : Byte) : Cpu :=
  match r with
  | .a => { c with a := v }
  | .b => { c with b := v }
  | .c => { c with c := v }
  | .d => { c with d := v }
  | .e => { c with e := v }
  | .h => { c with h := v }
  | .l => { c with l := v }

/-! ## Pairs: views of the bytes (R31) -/

def Cpu.bc (c : Cpu) : Word := cat16 c.b c.c
def Cpu.de (c : Cpu) : Word := cat16 c.d c.e
def Cpu.hl (c : Cpu) : Word := cat16 c.h c.l
def Cpu.af (c : Cpu) : Word := cat16 c.a c.f.toByte

def Cpu.setBc (c : Cpu) (v : Word) : Cpu := { c with b := hiByte v, c := loByte v }
def Cpu.setDe (c : Cpu) (v : Word) : Cpu := { c with d := hiByte v, e := loByte v }
def Cpu.setHl (c : Cpu) (v : Word) : Cpu := { c with h := hiByte v, l := loByte v }
def Cpu.setAf (c : Cpu) (v : Word) : Cpu := { c with a := hiByte v, f := Flags.ofByte (loByte v) }

/-- `R16[p]`. -/
def Cpu.get16 (c : Cpu) : R16 → Word
  | .bc => c.bc
  | .de => c.de
  | .hl => c.hl
  | .sp => c.sp

/-- `R16[p] <- v`. -/
def Cpu.set16 (c : Cpu) (p : R16) (v : Word) : Cpu :=
  match p with
  | .bc => c.setBc v
  | .de => c.setDe v
  | .hl => c.setHl v
  | .sp => { c with sp := v }

/-- `R16q[q]`. -/
def Cpu.get16q (c : Cpu) : R16q → Word
  | .bc => c.bc
  | .de => c.de
  | .hl => c.hl
  | .af => c.af

/-- `R16q[q] <- v` for the pairs POP rr writes (R335). -/
def Cpu.set16p (c : Cpu) (q : R16p) (v : Word) : Cpu :=
  match q with
  | .bc => c.setBc v
  | .de => c.setDe v
  | .hl => c.setHl v

/-! ## Conditions, displacement, high page -/

/-- `cond(c)` (46_control.md R470). -/
def condHolds (cc : Cond) (f : Flags) : Bool :=
  match cc with
  | .nz => !f.z
  | .z => f.z
  | .nc => !f.c
  | .c => f.c

/-- `sext_16` of a displacement (R205). -/
def displacement (e : Byte) : Word := e.signExtend 16

/-- `0xFF00 + n` (40_load8.md R309 to R312). -/
def highPage (n : Byte) : Word := 0xFF00 + n.zeroExtend 16

/-! ## The machine's CPU registers -/

/-- A machine with other CPU registers. -/
def State.withCpu (s : State) (c : Cpu) : State := { s with cpu := c }

def State.setPc (s : State) (a : Word) : State := s.withCpu { s.cpu with pc := a }
def State.setSp (s : State) (v : Word) : State := s.withCpu { s.cpu with sp := v }
def State.setA (s : State) (v : Byte) : State := s.withCpu { s.cpu with a := v }
def State.setF (s : State) (f : Flags) : State := s.withCpu { s.cpu with f := f }
def State.setIme (s : State) (b : Bool) : State := s.withCpu { s.cpu with ime := b }
def State.setHl (s : State) (v : Word) : State := s.withCpu (s.cpu.setHl v)
def State.set8 (s : State) (r : R8) (v : Byte) : State := s.withCpu (s.cpu.set8 r v)
def State.set16 (s : State) (p : R16) (v : Word) : State := s.withCpu (s.cpu.set16 p v)

end Sys2Proof.Machine
end

