-- ==== Sys2Proof/Machine/Ops.lean ====
section
/-! DEFINITION. The primitives of 00_scope.md R11 that the instructions are written with, the fetch, taking an interrupt and
returning from one (60_exceptions.md R601 to R607), and raising a fatal fault (R610). -/

namespace Sys2Proof.Machine

/-! ## Bus accesses and internal slots (R11) -/

/-- `MemRead(a, 1)`: the slot, then the read. -/
def memRead (a : Word) (s : State) : Byte × State :=
  let s1 := cycle s
  (busRead s1 a, s1)

/-- `MemWrite(a, 1, v)`: the slot, then the write. -/
def memWrite (a : Word) (v : Byte) (s : State) : State := busWrite (cycle s) a v

/-- `Internal()`. -/
def internal (s : State) : State := cycle s

/-- `Fetch8()`. -/
def fetch8 (s : State) : Byte × State :=
  let r := memRead s.cpu.pc s
  (r.1, r.2.setPc (r.2.cpu.pc + 1))

/-- `Push16(v)`. -/
def push16 (v : Word) (s : State) : State :=
  let s1 := s.setSp (s.cpu.sp - 1)
  let s2 := memWrite s1.cpu.sp (hiByte v) s1
  let s3 := s2.setSp (s2.cpu.sp - 1)
  memWrite s3.cpu.sp (loByte v) s3

/-- `Pop16()`. -/
def pop16 (s : State) : Word × State :=
  let lo := memRead s.cpu.sp s
  let s1 := lo.2.setSp (lo.2.cpu.sp + 1)
  let hi := memRead s1.cpu.sp s1
  (cat16 hi.1 lo.1, hi.2.setSp (hi.2.cpu.sp + 1))

/-! ## Fetching an instruction (R601 d) -/

/-- The opcode and its operand bytes, in the order of the stream (30_encoding.md R206). For 0xCB the one operand byte is the
second opcode byte, so the pair is one instruction of the step (47_system.md R501). -/
def fetchInstr (s : State) : Instr × State :=
  let op := fetch8 s
  match operandBytes op.1 with
  | 0 => (decodeOp op.1 0 0, op.2)
  | 1 =>
    let b1 := fetch8 op.2
    (decodeOp op.1 b1.1 0, b1.2)
  | _ =>
    let b1 := fetch8 op.2
    let b2 := fetch8 b1.2
    (decodeOp op.1 b1.1 b2.1, b2.2)

/-! ## Interrupts (60_exceptions.md) -/

/-- `IE & IF & 0x1F` (R601). -/
def pending (s : State) : BitVec 5 := s.int.request &&& s.int.enable.truncate 5

/-- "the lowest-numbered pending bit is selected" (R604). -/
def lowestPending (p : BitVec 5) : Option (Fin 5) :=
  if p.getLsbD 0 then some 0
  else if p.getLsbD 1 then some 1
  else if p.getLsbD 2 then some 2
  else if p.getLsbD 3 then some 3
  else if p.getLsbD 4 then some 4
  else none

/-- `IF <- IF & ~(1 << k)` (R604). -/
def clearRequest (k : Fin 5) (s : State) : State :=
  { s with int := { s.int with request := s.int.request &&& ~~~(1#5 <<< k.val) } }

/-- The handler address of source `k` (R606). -/
def vectorOf (k : Fin 5) : Word := BitVec.ofNat 16 (0x0040 + 8 * k.val)

/-- `Dispatch(k)`: taking interrupt `k` (R604). -/
def takeInterrupt (k : Fin 5) (s : State) : State :=
  let s1 := repeatN internal (irqEntryPreCycles / slotCycles) (s.setIme false)
  let s2 := clearRequest k (push16 s1.cpu.pc s1)
  internal (s2.setPc (vectorOf k))

/-- Returning from an interrupt: what RETI does (46_control.md R480, R607). -/
def returnFromInterrupt (s : State) : State :=
  let a := pop16 s
  ((internal a.2).setPc a.1).setIme true

/-- Step a: end a HALT, then take the interrupt if IME is set (R601, R603). -/
def serviceInterrupts (s : State) : State :=
  match lowestPending (pending s) with
  | none => s
  | some k =>
    let s1 := s.withCpu { s.cpu with halted := false }
    if s1.cpu.ime then takeInterrupt k s1 else s1

/-- Step b: commit the delayed enable (R601, 10_state.md R37). -/
def commitEi (s : State) : State :=
  if s.cpu.eiPending then s.withCpu { s.cpu with ime := true, eiPending := false } else s

/-! ## Fatal faults (R610) -/

/-- `raise Fatal(kind, opcode, pc = (PC - 1) mod 2^16)`: the record is set and nothing else changes. The step after this one
has no successor (R612; log 4). -/
def raiseFatal (kind : FatalKind) (opcode : Byte) (s : State) : State :=
  { s with fault := some { kind := kind, opcode := opcode, pc := s.cpu.pc - 1 } }

end Sys2Proof.Machine
end

