-- ==== Sys2Proof/Machine/Alu16.lean ====
section
/-! DEFINITION. 16-bit arithmetic (43_alu16.md). -/

namespace Sys2Proof.Machine

/-- ADD HL, rr (R400). -/
def execAddHlRr (p : R16) (s : State) : Host.Outcome State Fault Refusal :=
  let s1 := internal s
  let r := addHlResult s.cpu.hl (s.cpu.get16 p) s.cpu.f
  .next ((s1.setHl r.1).setF r.2)

/-- INC rr (R401): no flag is written. -/
def execIncRr (p : R16) (s : State) : Host.Outcome State Fault Refusal :=
  let s1 := internal s
  .next (s1.set16 p (s1.cpu.get16 p + 1))

/-- DEC rr (R402): no flag is written. -/
def execDecRr (p : R16) (s : State) : Host.Outcome State Fault Refusal :=
  let s1 := internal s
  .next (s1.set16 p (s1.cpu.get16 p - 1))

/-- ADD SP, e8 (R403): two internal slots. -/
def execAddSpE (e : Byte) (s : State) : Host.Outcome State Fault Refusal :=
  let s1 := internal (internal s)
  let r := spPlusResult s1.cpu.sp e
  .next ((s1.setSp r.1).setF r.2)

end Sys2Proof.Machine
end

