-- ==== Sys2Proof/Machine/Alu8.lean ====
section
/-! DEFINITION. 8-bit arithmetic and logic (42_alu8.md). -/

namespace Sys2Proof.Machine

/-- `OP A, b` (R360). -/
def applyAlu (op : AluOp) (b : Byte) (s : State) : State :=
  let r := op s.cpu.a b s.cpu.f.c
  (s.setA r.1).setF r.2

/-- `OP A, (HL)` (R360). -/
def applyAluHl (op : AluOp) (s : State) : State :=
  let r := memRead s.cpu.hl s
  applyAlu op r.1 r.2

/-- INC and DEC on the byte at HL: a read slot, then a write slot (R371, R372). -/
def modifyHl (f : Byte → Flags → Byte × Flags) (s : State) : State :=
  let r := memRead s.cpu.hl s
  let v := f r.1 r.2.cpu.f
  (memWrite r.2.cpu.hl v.1 r.2).setF v.2

/-- INC and DEC on a register (R369, R370). -/
def modifyReg (f : Byte → Flags → Byte × Flags) (dst : R8) (s : State) : State :=
  let v := f (s.cpu.get8 dst) s.cpu.f
  (s.set8 dst v.1).setF v.2

/-- ADD A, r (R361). -/
def execAddR (r : R8) (s : State) : Host.Outcome State Fault Refusal :=
  .next (applyAlu aluAdd (s.cpu.get8 r) s)

/-- ADD A, (HL) (R361). -/
def execAddHl (s : State) : Host.Outcome State Fault Refusal :=
  .next (applyAluHl aluAdd s)

/-- ADD A, n8 (R361). -/
def execAddN (n : Byte) (s : State) : Host.Outcome State Fault Refusal :=
  .next (applyAlu aluAdd n s)

/-- ADC A, r (R362). -/
def execAdcR (r : R8) (s : State) : Host.Outcome State Fault Refusal :=
  .next (applyAlu aluAdc (s.cpu.get8 r) s)

/-- ADC A, (HL) (R362). -/
def execAdcHl (s : State) : Host.Outcome State Fault Refusal :=
  .next (applyAluHl aluAdc s)

/-- ADC A, n8 (R362). -/
def execAdcN (n : Byte) (s : State) : Host.Outcome State Fault Refusal :=
  .next (applyAlu aluAdc n s)

/-- SUB A, r (R363). -/
def execSubR (r : R8) (s : State) : Host.Outcome State Fault Refusal :=
  .next (applyAlu aluSub (s.cpu.get8 r) s)

/-- SUB A, (HL) (R363). -/
def execSubHl (s : State) : Host.Outcome State Fault Refusal :=
  .next (applyAluHl aluSub s)

/-- SUB A, n8 (R363). -/
def execSubN (n : Byte) (s : State) : Host.Outcome State Fault Refusal :=
  .next (applyAlu aluSub n s)

/-- SBC A, r (R364). -/
def execSbcR (r : R8) (s : State) : Host.Outcome State Fault Refusal :=
  .next (applyAlu aluSbc (s.cpu.get8 r) s)

/-- SBC A, (HL) (R364). -/
def execSbcHl (s : State) : Host.Outcome State Fault Refusal :=
  .next (applyAluHl aluSbc s)

/-- SBC A, n8 (R364). -/
def execSbcN (n : Byte) (s : State) : Host.Outcome State Fault Refusal :=
  .next (applyAlu aluSbc n s)

/-- AND A, r (R365). -/
def execAndR (r : R8) (s : State) : Host.Outcome State Fault Refusal :=
  .next (applyAlu aluAnd (s.cpu.get8 r) s)

/-- AND A, (HL) (R365). -/
def execAndHl (s : State) : Host.Outcome State Fault Refusal :=
  .next (applyAluHl aluAnd s)

/-- AND A, n8 (R365). -/
def execAndN (n : Byte) (s : State) : Host.Outcome State Fault Refusal :=
  .next (applyAlu aluAnd n s)

/-- XOR A, r (R366). -/
def execXorR (r : R8) (s : State) : Host.Outcome State Fault Refusal :=
  .next (applyAlu aluXor (s.cpu.get8 r) s)

/-- XOR A, (HL) (R366). -/
def execXorHl (s : State) : Host.Outcome State Fault Refusal :=
  .next (applyAluHl aluXor s)

/-- XOR A, n8 (R366). -/
def execXorN (n : Byte) (s : State) : Host.Outcome State Fault Refusal :=
  .next (applyAlu aluXor n s)

/-- OR A, r (R367). -/
def execOrR (r : R8) (s : State) : Host.Outcome State Fault Refusal :=
  .next (applyAlu aluOr (s.cpu.get8 r) s)

/-- OR A, (HL) (R367). -/
def execOrHl (s : State) : Host.Outcome State Fault Refusal :=
  .next (applyAluHl aluOr s)

/-- OR A, n8 (R367). -/
def execOrN (n : Byte) (s : State) : Host.Outcome State Fault Refusal :=
  .next (applyAlu aluOr n s)

/-- CP A, r (R368). -/
def execCpR (r : R8) (s : State) : Host.Outcome State Fault Refusal :=
  .next (applyAlu aluCp (s.cpu.get8 r) s)

/-- CP A, (HL) (R368). -/
def execCpHl (s : State) : Host.Outcome State Fault Refusal :=
  .next (applyAluHl aluCp s)

/-- CP A, n8 (R368). -/
def execCpN (n : Byte) (s : State) : Host.Outcome State Fault Refusal :=
  .next (applyAlu aluCp n s)

/-- INC r (R369). -/
def execIncR (dst : R8) (s : State) : Host.Outcome State Fault Refusal :=
  .next (modifyReg incResult dst s)

/-- DEC r (R370). -/
def execDecR (dst : R8) (s : State) : Host.Outcome State Fault Refusal :=
  .next (modifyReg decResult dst s)

/-- INC (HL) (R371). -/
def execIncHl (s : State) : Host.Outcome State Fault Refusal :=
  .next (modifyHl incResult s)

/-- DEC (HL) (R372). -/
def execDecHl (s : State) : Host.Outcome State Fault Refusal :=
  .next (modifyHl decResult s)

/-- DAA (R373). -/
def execDaa (s : State) : Host.Outcome State Fault Refusal :=
  .next (modifyReg daaResult .a s)

/-- CPL (R374). -/
def execCpl (s : State) : Host.Outcome State Fault Refusal :=
  .next (modifyReg cplResult .a s)

/-- SCF (R375). -/
def execScf (s : State) : Host.Outcome State Fault Refusal :=
  .next (s.setF (scfFlags s.cpu.f))

/-- CCF (R376). -/
def execCcf (s : State) : Host.Outcome State Fault Refusal :=
  .next (s.setF (ccfFlags s.cpu.f))

end Sys2Proof.Machine
end

