-- ==== Sys2Proof/Machine/BitOps.lean ====
section
/-! DEFINITION. Single-bit operations (45_bit.md). -/

namespace Sys2Proof.Machine

/-- RES and SET on the byte at HL: a read slot, then a write slot (R451, R452). -/
def editHl (f : Byte → Byte) (s : State) : State :=
  let v := memRead s.cpu.hl s
  memWrite v.2.cpu.hl (f v.1) v.2

/-- BIT b, r (R450). -/
def execBitR (b : Index3) (r : R8) (s : State) : Host.Outcome State Fault Refusal :=
  .next (s.setF (bitFlags b (s.cpu.get8 r) s.cpu.f))

/-- BIT b, (HL) (R450): there is no write-back. -/
def execBitHl (b : Index3) (s : State) : Host.Outcome State Fault Refusal :=
  let v := memRead s.cpu.hl s
  .next (v.2.setF (bitFlags b v.1 v.2.cpu.f))

/-- RES b, r (R451). -/
def execResR (b : Index3) (r : R8) (s : State) : Host.Outcome State Fault Refusal :=
  .next (s.set8 r (clearBit b (s.cpu.get8 r)))

/-- RES b, (HL) (R451). -/
def execResHl (b : Index3) (s : State) : Host.Outcome State Fault Refusal :=
  .next (editHl (clearBit b) s)

/-- SET b, r (R452). -/
def execSetR (b : Index3) (r : R8) (s : State) : Host.Outcome State Fault Refusal :=
  .next (s.set8 r (setBit b (s.cpu.get8 r)))

/-- SET b, (HL) (R452). -/
def execSetHl (b : Index3) (s : State) : Host.Outcome State Fault Refusal :=
  .next (editHl (setBit b) s)

end Sys2Proof.Machine
end

