-- ==== Sys2Proof/Machine/Control.lean ====
section
/-! DEFINITION. Control transfer (46_control.md). -/

namespace Sys2Proof.Machine

/-- The "PC load" slot and the load (R471). -/
def jumpTo (a : Word) (s : State) : State := (internal s).setPc a

/-- `Internal(); Push16(PC); PC <- a` (R476, R481). -/
def callTo (a : Word) (s : State) : State :=
  let s1 := internal s
  (push16 s1.cpu.pc s1).setPc a

/-- `a <- Pop16(); Internal(); PC <- a` (R478). -/
def returnTo (s : State) : State :=
  let a := pop16 s
  (internal a.2).setPc a.1

/-- JP n16 (R471). -/
def execJp (a : Word) (s : State) : Host.Outcome State Fault Refusal :=
  .next (jumpTo a s)

/-- JP cc, n16 (R472). -/
def execJpCc (cc : Cond) (a : Word) (s : State) : Host.Outcome State Fault Refusal :=
  .next (if condHolds cc s.cpu.f then jumpTo a s else s)

/-- JP HL (R473): no PC-load slot. -/
def execJpHl (s : State) : Host.Outcome State Fault Refusal :=
  .next (s.setPc s.cpu.hl)

/-- JR e8 (R474). -/
def execJr (e : Byte) (s : State) : Host.Outcome State Fault Refusal :=
  .next (jumpTo (s.cpu.pc + displacement e) s)

/-- JR cc, e8 (R475). -/
def execJrCc (cc : Cond) (e : Byte) (s : State) : Host.Outcome State Fault Refusal :=
  .next (if condHolds cc s.cpu.f then jumpTo (s.cpu.pc + displacement e) s else s)

/-- CALL n16 (R476). -/
def execCall (a : Word) (s : State) : Host.Outcome State Fault Refusal :=
  .next (callTo a s)

/-- CALL cc, n16 (R477). -/
def execCallCc (cc : Cond) (a : Word) (s : State) : Host.Outcome State Fault Refusal :=
  .next (if condHolds cc s.cpu.f then callTo a s else s)

/-- RET (R478). -/
def execRet (s : State) : Host.Outcome State Fault Refusal :=
  .next (returnTo s)

/-- RET cc (R479): the condition test has a slot of its own. -/
def execRetCc (cc : Cond) (s : State) : Host.Outcome State Fault Refusal :=
  let s1 := internal s
  .next (if condHolds cc s1.cpu.f then returnTo s1 else s1)

/-- RETI (R480). -/
def execReti (s : State) : Host.Outcome State Fault Refusal :=
  .next (returnFromInterrupt s)

/-- RST t (R481): the target is `t * 8`. -/
def execRst (t : Index3) (s : State) : Host.Outcome State Fault Refusal :=
  .next (callTo (t.zeroExtend 16 <<< 3) s)

end Sys2Proof.Machine
end

