-- ==== Sys2Proof/Machine/Load16.lean ====
section
/-! DEFINITION. 16-bit loads and the stack (41_load16_stack.md). -/

namespace Sys2Proof.Machine

/-- LD rr, n16 (R330). -/
def execLdRrN16 (p : R16) (v : Word) (s : State) : Host.Outcome State Fault Refusal :=
  .next (s.set16 p v)

/-- LD (n16), SP (R331): the low byte first. -/
def execLdN16Sp (a : Word) (s : State) : Host.Outcome State Fault Refusal :=
  let s1 := memWrite a (loByte s.cpu.sp) s
  .next (memWrite (a + 1) (hiByte s1.cpu.sp) s1)

/-- LD SP, HL (R332). -/
def execLdSpHl (s : State) : Host.Outcome State Fault Refusal :=
  let s1 := internal s
  .next (s1.setSp s1.cpu.hl)

/-- LD HL, SP+e8 (R333). -/
def execLdHlSpE (e : Byte) (s : State) : Host.Outcome State Fault Refusal :=
  let s1 := internal s
  let r := spPlusResult s1.cpu.sp e
  .next ((s1.setHl r.1).setF r.2)

/-- PUSH rr (R334). -/
def execPushRr (q : R16q) (s : State) : Host.Outcome State Fault Refusal :=
  let s1 := internal s
  .next (push16 (s1.cpu.get16q q) s1)

/-- POP rr (R335). -/
def execPopRr (q : R16p) (s : State) : Host.Outcome State Fault Refusal :=
  let r := pop16 s
  .next (r.2.withCpu (r.2.cpu.set16p q r.1))

/-- POP AF (R336): the low nibble of F is dropped. -/
def execPopAf (s : State) : Host.Outcome State Fault Refusal :=
  let r := pop16 s
  .next (r.2.withCpu (r.2.cpu.setAf r.1))

end Sys2Proof.Machine
end

