-- ==== Sys2Proof/Machine/Load8.lean ====
section
/-! DEFINITION. 8-bit loads (40_load8.md). -/

namespace Sys2Proof.Machine

/-- `A <- MemRead(a, 1)`. -/
def loadA (a : Word) (s : State) : State :=
  let r := memRead a s
  r.2.setA r.1

/-- `MemWrite(a, 1, A)`. -/
def storeA (a : Word) (s : State) : State := memWrite a s.cpu.a s

/-- LD r, r' (R300). -/
def execLdRR (dst src : R8) (s : State) : Host.Outcome State Fault Refusal :=
  .next (s.set8 dst (s.cpu.get8 src))

/-- LD r, n8 (R301). -/
def execLdRN (dst : R8) (n : Byte) (s : State) : Host.Outcome State Fault Refusal :=
  .next (s.set8 dst n)

/-- LD r, (HL) (R302): the address is the old HL. -/
def execLdRHl (dst : R8) (s : State) : Host.Outcome State Fault Refusal :=
  let r := memRead s.cpu.hl s
  .next (r.2.set8 dst r.1)

/-- LD (HL), r (R303). -/
def execLdHlR (src : R8) (s : State) : Host.Outcome State Fault Refusal :=
  .next (memWrite s.cpu.hl (s.cpu.get8 src) s)

/-- LD (HL), n8 (R304). -/
def execLdHlN (n : Byte) (s : State) : Host.Outcome State Fault Refusal :=
  .next (memWrite s.cpu.hl n s)

/-- LD A, (BC) (R305). -/
def execLdABc (s : State) : Host.Outcome State Fault Refusal :=
  .next (loadA s.cpu.bc s)

/-- LD A, (DE) (R305). -/
def execLdADe (s : State) : Host.Outcome State Fault Refusal :=
  .next (loadA s.cpu.de s)

/-- LD (BC), A (R306). -/
def execLdBcA (s : State) : Host.Outcome State Fault Refusal :=
  .next (storeA s.cpu.bc s)

/-- LD (DE), A (R306). -/
def execLdDeA (s : State) : Host.Outcome State Fault Refusal :=
  .next (storeA s.cpu.de s)

/-- LD A, (n16) (R307). -/
def execLdAN16 (a : Word) (s : State) : Host.Outcome State Fault Refusal :=
  .next (loadA a s)

/-- LD (n16), A (R308). -/
def execLdN16A (a : Word) (s : State) : Host.Outcome State Fault Refusal :=
  .next (storeA a s)

/-- LDH A, (n8) (R309). -/
def execLdhAN (n : Byte) (s : State) : Host.Outcome State Fault Refusal :=
  .next (loadA (highPage n) s)

/-- LDH (n8), A (R310). -/
def execLdhNA (n : Byte) (s : State) : Host.Outcome State Fault Refusal :=
  .next (storeA (highPage n) s)

/-- LD A, (C) (R311). -/
def execLdAC (s : State) : Host.Outcome State Fault Refusal :=
  .next (loadA (highPage s.cpu.c) s)

/-- LD (C), A (R312). -/
def execLdCA (s : State) : Host.Outcome State Fault Refusal :=
  .next (storeA (highPage s.cpu.c) s)

/-- LD A, (HL+) (R313). -/
def execLdAHli (s : State) : Host.Outcome State Fault Refusal :=
  let s1 := loadA s.cpu.hl s
  .next (s1.setHl (s1.cpu.hl + 1))

/-- LD A, (HL-) (R314). -/
def execLdAHld (s : State) : Host.Outcome State Fault Refusal :=
  let s1 := loadA s.cpu.hl s
  .next (s1.setHl (s1.cpu.hl - 1))

/-- LD (HL+), A (R315). -/
def execLdHliA (s : State) : Host.Outcome State Fault Refusal :=
  let s1 := storeA s.cpu.hl s
  .next (s1.setHl (s1.cpu.hl + 1))

/-- LD (HL-), A (R316). -/
def execLdHldA (s : State) : Host.Outcome State Fault Refusal :=
  let s1 := storeA s.cpu.hl s
  .next (s1.setHl (s1.cpu.hl - 1))

end Sys2Proof.Machine
end

