-- ==== Sys2Proof/Machine/Rotate.lean ====
section
/-! DEFINITION. Rotates and shifts (44_rotate_shift.md). -/

namespace Sys2Proof.Machine

/-- A rotate of A, with Z forced to 0 (R420 to R423). -/
def rotateA (op : ShiftOp) (s : State) : State :=
  let r := op s.cpu.a s.cpu.f.c
  (s.setA r.1).setF (rotateAFlags r)

/-- `OP r` of R424. -/
def shiftReg (op : ShiftOp) (dst : R8) (s : State) : State :=
  let r := op (s.cpu.get8 dst) s.cpu.f.c
  (s.set8 dst r.1).setF (shiftFlags r)

/-- `OP (HL)` of R424: a read slot, then a write slot. -/
def shiftHl (op : ShiftOp) (s : State) : State :=
  let v := memRead s.cpu.hl s
  let r := op v.1 v.2.cpu.f.c
  (memWrite v.2.cpu.hl r.1 v.2).setF (shiftFlags r)

/-- RLCA (R420). -/
def execRlca (s : State) : Host.Outcome State Fault Refusal :=
  .next (rotateA shRlc s)

/-- RRCA (R421). -/
def execRrca (s : State) : Host.Outcome State Fault Refusal :=
  .next (rotateA shRrc s)

/-- RLA (R422). -/
def execRla (s : State) : Host.Outcome State Fault Refusal :=
  .next (rotateA shRl s)

/-- RRA (R423). -/
def execRra (s : State) : Host.Outcome State Fault Refusal :=
  .next (rotateA shRr s)

/-- RLC r (R425). -/
def execRlcR (r : R8) (s : State) : Host.Outcome State Fault Refusal :=
  .next (shiftReg shRlc r s)

/-- RLC (HL) (R425). -/
def execRlcHl (s : State) : Host.Outcome State Fault Refusal :=
  .next (shiftHl shRlc s)

/-- RRC r (R426). -/
def execRrcR (r : R8) (s : State) : Host.Outcome State Fault Refusal :=
  .next (shiftReg shRrc r s)

/-- RRC (HL) (R426). -/
def execRrcHl (s : State) : Host.Outcome State Fault Refusal :=
  .next (shiftHl shRrc s)

/-- RL r (R427). -/
def execRlR (r : R8) (s : State) : Host.Outcome State Fault Refusal :=
  .next (shiftReg shRl r s)

/-- RL (HL) (R427). -/
def execRlHl (s : State) : Host.Outcome State Fault Refusal :=
  .next (shiftHl shRl s)

/-- RR r (R428). -/
def execRrR (r : R8) (s : State) : Host.Outcome State Fault Refusal :=
  .next (shiftReg shRr r s)

/-- RR (HL) (R428). -/
def execRrHl (s : State) : Host.Outcome State Fault Refusal :=
  .next (shiftHl shRr s)

/-- SLA r (R429). -/
def execSlaR (r : R8) (s : State) : Host.Outcome State Fault Refusal :=
  .next (shiftReg shSla r s)

/-- SLA (HL) (R429). -/
def execSlaHl (s : State) : Host.Outcome State Fault Refusal :=
  .next (shiftHl shSla s)

/-- SRA r (R430). -/
def execSraR (r : R8) (s : State) : Host.Outcome State Fault Refusal :=
  .next (shiftReg shSra r s)

/-- SRA (HL) (R430). -/
def execSraHl (s : State) : Host.Outcome State Fault Refusal :=
  .next (shiftHl shSra s)

/-- SWAP r (R431). -/
def execSwapR (r : R8) (s : State) : Host.Outcome State Fault Refusal :=
  .next (shiftReg shSwap r s)

/-- SWAP (HL) (R431). -/
def execSwapHl (s : State) : Host.Outcome State Fault Refusal :=
  .next (shiftHl shSwap s)

/-- SRL r (R432). -/
def execSrlR (r : R8) (s : State) : Host.Outcome State Fault Refusal :=
  .next (shiftReg shSrl r s)

/-- SRL (HL) (R432). -/
def execSrlHl (s : State) : Host.Outcome State Fault Refusal :=
  .next (shiftHl shSrl s)

end Sys2Proof.Machine
end

