-- ==== Sys2Proof/Machine/System.lean ====
section
/-! DEFINITION. System and control instructions, the CB prefix and the undefined opcodes (47_system.md). -/

namespace Sys2Proof.Machine

/-- NOP (R500). -/
def execNop (s : State) : Host.Outcome State Fault Refusal :=
  .next s

/-- HALT (R502). Its end is step a (60_exceptions.md R603). -/
def execHalt (s : State) : Host.Outcome State Fault Refusal :=
  .next (s.withCpu { s.cpu with halted := true })

/-- STOP (R503): fatal. -/
def execStop (s : State) : Host.Outcome State Fault Refusal :=
  .next (raiseFatal .stop 0x10 s)

/-- DI (R504). -/
def execDi (s : State) : Host.Outcome State Fault Refusal :=
  .next (s.withCpu { s.cpu with ime := false, eiPending := false })

/-- EI (R505). Its effect on IME is step b of the next step. -/
def execEi (s : State) : Host.Outcome State Fault Refusal :=
  .next (s.withCpu { s.cpu with eiPending := true })

/-- An undefined opcode (R506): fatal. -/
def execIllegal (op : Byte) (s : State) : Host.Outcome State Fault Refusal :=
  .next (raiseFatal .illegalOpcode op s)

/-- `execute CB[op2]` (R501): the row of the CB map (30_encoding.md R208) that the second byte selects. -/
def execCb (op2 : Byte) (s : State) : Host.Outcome State Fault Refusal :=
  let y := fieldY op2
  let b : Index3 := BitVec.ofNat 3 y
  match fieldX op2, r8Of (fieldZ op2) with
  | 0, some r =>
    match y with
    | 0 => execRlcR r s
    | 1 => execRrcR r s
    | 2 => execRlR r s
    | 3 => execRrR r s
    | 4 => execSlaR r s
    | 5 => execSraR r s
    | 6 => execSwapR r s
    | _ => execSrlR r s
  | 0, none =>
    match y with
    | 0 => execRlcHl s
    | 1 => execRrcHl s
    | 2 => execRlHl s
    | 3 => execRrHl s
    | 4 => execSlaHl s
    | 5 => execSraHl s
    | 6 => execSwapHl s
    | _ => execSrlHl s
  | 1, some r => execBitR b r s
  | 1, none => execBitHl b s
  | 2, some r => execResR b r s
  | 2, none => execResHl b s
  | _, some r => execSetR b r s
  | _, none => execSetHl b s

/-- PREFIX CB (R501): fetch the second byte and execute its row. -/
def execPrefixCb (s : State) : Host.Outcome State Fault Refusal :=
  let op2 := fetch8 s
  execCb op2.1 op2.2

end Sys2Proof.Machine
end

