-- ==== Sys2Proof/Machine/Step.lean ====
section
/-! DEFINITION. The step (60_exceptions.md R601) and the placing of an instruction for it to fetch. -/

namespace Sys2Proof.Machine

/-- What comes before step c of R601: a (interrupts) and b (the EI commit). -/
def boundary (s : State) : State := commitEi (serviceInterrupts s)

/-- `Step()` (R601). A machine whose FAULT is set has no successor (R612). -/
def step (s : State) : Host.Outcome State Fault Refusal :=
  match s.fault with
  | some r => .fault (.fatal r)
  | none =>
    let s1 := boundary s
    if s1.cpu.halted then .next (cycle s1)
    else
      let f := fetchInstr s1
      exec f.1 f.2

/-- `s` with the instruction of spec/opcode_table.json numbered `w` in the memory at PC, 0 in its operand bytes, and ready to
fetch it: no fault, not halted, and no interrupt taken first (log 13). -/
def State.withFetchWord (s : State) (nbits w : Nat) : State :=
  let bytes := tableBytes nbits w
  let s1 := poke s s.cpu.pc (bytes.getD 0 0)
  let s2 := poke s1 (s.cpu.pc + 1) (bytes.getD 1 0)
  let s3 := poke s2 (s.cpu.pc + 2) (bytes.getD 2 0)
  { s3 with
    fault := none
    cpu :=
      { s3.cpu with
        halted := false
        ime := s3.cpu.ime && decide (pending s3 = 0) } }

end Sys2Proof.Machine
end

