-- ==== Sys2Proof/Machine/Joypad.lean ====
section
/-! DEFINITION. The joypad's input side: `set_button` and the host's pending button events (66_input_host.md R950 to R952).
The P1 read is in Machine/IoRead.lean. -/

namespace Sys2Proof.Machine

/-- `pressed[b]`. -/
def Pressed.get (p : Pressed) : Button → Bool
  | .right => p.right
  | .left => p.left
  | .up => p.up
  | .down => p.down
  | .a => p.a
  | .b => p.b
  | .select => p.select
  | .start => p.start

/-- `pressed[b] <- v`. -/
def Pressed.set (p : Pressed) (btn : Button) (v : Bool) : Pressed :=
  match btn with
  | .right => { p with right := v }
  | .left => { p with left := v }
  | .up => { p with up := v }
  | .down => { p with down := v }
  | .a => { p with a := v }
  | .b => { p with b := v }
  | .select => { p with select := v }
  | .start => { p with start := v }

/-- Whether a button is in the direction row. -/
def Button.isDirection : Button → Bool
  | .right => true
  | .left => true
  | .up => true
  | .down => true
  | .a => false
  | .b => false
  | .select => false
  | .start => false

/-- `row_selected` of R952: the selects are active low. -/
def rowSelected (io : HostIo) (btn : Button) : Bool :=
  if btn.isDirection then !io.sel.getLsbD 0 else !io.sel.getLsbD 1

/-- `SetButton(btn, v)` (R952): a press on a selected row requests INPUT. -/
def setButton (btn : Button) (v : Bool) (s : State) : State :=
  let s1 := { s with io := { s.io with pressed := s.io.pressed.set btn v } }
  if s.io.pressed.get btn = false ∧ v = true ∧ rowSelected s.io btn = true then requestInterrupt 4 s1 else s1

/-- Apply the events of `queue` that are due, in order, and keep the rest (log 6). -/
def applyInputs : List InputEvent → State → State
  | [], s => { s with io := { s.io with inputs := [] } }
  | e :: rest, s =>
    if e.due ≤ s.t then applyInputs rest (setButton e.button e.pressed s)
    else { s with io := { s.io with inputs := e :: rest } }

/-- `refresh_input()`: "the host applies pending set_button events" (66_input_host.md R966), between two calls of `run_for` and
never inside one (R952). The step does not call it. -/
def refreshInput (s : State) : State := applyInputs s.io.inputs s

end Sys2Proof.Machine
end

