-- ==== Sys2Proof/Machine/HostLoop.lean ====
section
/-! DEFINITION. The host's side of the machine: `run_for`, the top-level loop and the audio buffers (66_input_host.md R957, R965,
R966). The step does not use this file. -/

namespace Sys2Proof.Machine

/-! ## Running (R965, R966) -/

/-- Steps while T is below `target` and FAULT is none. `fuel` bounds their number. -/
def runUntil (target : Nat) : Nat → State → State
  | 0, s => s
  | fuel + 1, s =>
    if s.t < target ∧ s.fault = none then
      match step s with
      | .next s1 => runUntil target fuel s1
      | .fault _ => s
      | .refused _ => s
    else s

/-- `run_for(N)` (R965): what it returns, and the machine after it. Every step advances T, so `n` steps are enough. -/
def runFor (n : Nat) (s : State) : Nat × State :=
  let s1 := runUntil (s.t + n) n s
  (s1.t - s.t, s1)

/-- The top-level loop (R966) until `quit` after `n` passes: `refresh_input()`, then `run_for(CHUNK_CYCLES)`. -/
def topLoop (chunkCycles : Nat) : Nat → State → State
  | 0, s => s
  | n + 1, s => topLoop chunkCycles n (runFor chunkCycles (refreshInput s)).2

/-! ## Audio buffers (R957) -/

/-- One sample buffer with its two permits. -/
structure AudioBuffer where
  free : Nat
  ready : Nat
  frames : List (Nat × Nat)
  deriving DecidableEq, Repr

/-- The handshake: both buffers, how many frames the producer has written, and the buffer the consumer looks at. -/
structure AudioPort where
  buf0 : AudioBuffer
  buf1 : AudioBuffer
  produced : Nat
  consumeSecond : Bool
  deriving DecidableEq, Repr

/-- "Initial permits: `free[0] = free[1] = 1`, `ready[0] = ready[1] = 0`". -/
def AudioPort.start : AudioPort where
  buf0 := { free := 1, ready := 0, frames := [] }
  buf1 := { free := 1, ready := 0, frames := [] }
  produced := 0
  consumeSecond := false

def AudioPort.buffer (p : AudioPort) (second : Bool) : AudioBuffer := if second then p.buf1 else p.buf0

def AudioPort.setBuffer (p : AudioPort) (second : Bool) (b : AudioBuffer) : AudioPort :=
  if second then { p with buf1 := b } else { p with buf0 := b }

/-- The producer's frame, with `n` frames to a buffer (AUDIO_FRAMES); none while it waits for a `free` permit. -/
def AudioPort.produce (n : Nat) (p : AudioPort) (frame : Nat × Nat) : Option AudioPort :=
  let second := decide (p.produced / n % 2 = 1)
  let b := p.buffer second
  let first := decide (p.produced % n = 0)
  if first = true ∧ b.free = 0 then none
  else
    let b1 := if first then { b with free := b.free - 1, frames := [frame] } else { b with frames := b.frames ++ [frame] }
    let b2 := if p.produced % n = n - 1 then { b1 with ready := b1.ready + 1 } else b1
    some { p.setBuffer second b2 with produced := p.produced + 1 }

/-- The consumer's turn: a full buffer, or none for silence. -/
def AudioPort.consume (p : AudioPort) : Option (List (Nat × Nat)) × AudioPort :=
  let b := p.buffer p.consumeSecond
  if b.ready = 0 then (none, p)
  else
    (some b.frames,
      { p.setBuffer p.consumeSecond { b with ready := b.ready - 1, free := b.free + 1 } with
        consumeSecond := !p.consumeSecond })

end Sys2Proof.Machine
end

