-- ==== Sys2Proof/Machine/Loader.lean ====
section
/-! DEFINITION. Loading a cartridge: the header, the image checks and the save file (65_cartridge.md R880 to R885, 66_input_host.md
R960 to R962). It is how a machine with a program comes to be: `load` gives the state after reset (log 2). -/

namespace Sys2Proof.Machine

/-- Why there is no machine (R962). -/
inductive LoadError where
  | fileMissing
  | empty
  | tooSmall
  | tooLarge
  | unsupportedMapper
  | unsupportedRomSize
  | unsupportedRamSize
  | malformedHeader
  | saveCorrupt
  deriving DecidableEq, Repr

/-! ## Header (R881 to R885) -/

/-- ROM_BANKS by the code at 0x0148 (R882). -/
def romBanksOf (code : Nat) : Option Nat :=
  if code ≤ 8 then some (2 <<< code)
  else if code = 0x52 then some 72
  else if code = 0x53 then some 80
  else if code = 0x54 then some 96
  else none

/-- RAM_SIZE by the code at 0x0149 (R883). -/
def ramSizeOf (code : Nat) : Option Nat :=
  match code with
  | 0 => some 0
  | 1 => some 2048
  | 2 => some 8192
  | 3 => some 32768
  | 4 => some 131072
  | _ => none

/-- Model, battery and RTC by the code at 0x0147 (R884). -/
def mapperOf (code : Nat) : Option (Mapper × Bool × Bool) :=
  match code with
  | 0x00 => some (.plain, false, false)
  | 0x01 => some (.mbc1, false, false)
  | 0x02 => some (.mbc1, false, false)
  | 0x03 => some (.mbc1, true, false)
  | 0x05 => some (.mbc2, false, false)
  | 0x06 => some (.mbc2, true, false)
  | 0x08 => some (.plain, false, false)
  | 0x09 => some (.plain, true, false)
  | 0x0F => some (.mbc3, true, true)
  | 0x10 => some (.mbc3, true, true)
  | 0x11 => some (.mbc3, false, false)
  | 0x12 => some (.mbc3, false, false)
  | 0x13 => some (.mbc3, true, false)
  | 0x19 => some (.mbc5, false, false)
  | 0x1A => some (.mbc5, false, false)
  | 0x1B => some (.mbc5, true, false)
  | 0x1C => some (.mbc5, false, false)
  | 0x1D => some (.mbc5, false, false)
  | 0x1E => some (.mbc5, true, false)
  | 0xFF => some (.mbc1, true, false)
  | _ => none

/-- GBC_MODE: header byte 0x0143 bit 7 (R881). -/
def headerGbc (image : List Byte) : Bool := (image.getD 0x0143 0).getLsbD 7

/-- The longest image, 512 banks (R885). -/
def maxImage : Nat := 512 * 0x4000

/-- The cartridge an image describes, or why it is refused; the header is read before the sizes it gives are checked, and MBC2
ignores the RAM code (R883). The order of the checks is the model's, DESIGN CHOICE (log 16). -/
def parseCart (image : List Byte) : Except LoadError Cart :=
  if image.length = 0 then .error .empty
  else if maxImage < image.length then .error .tooLarge
  else if image.length < 0x0150 then .error .malformedHeader
  else
    match mapperOf (image.getD 0x0147 0).toNat, romBanksOf (image.getD 0x0148 0).toNat with
    | none, _ => .error .unsupportedMapper
    | some _, none => .error .unsupportedRomSize
    | some (m, battery, hasRtc), some banks =>
      match if m = .mbc2 then some 0 else ramSizeOf (image.getD 0x0149 0).toNat with
      | none => .error .unsupportedRamSize
      | some ramSize =>
        if image.length < banks * 0x4000 then .error .tooSmall
        else .ok (Cart.fresh m battery hasRtc banks ramSize (Rtc.fresh 0))

/-! ## Save file (R960) -/

/-- How many RAM bytes a save file holds: RAM_SIZE, and 512 for MBC2. -/
def Cart.saveRamLength (c : Cart) : Nat := if c.mapper = .mbc2 then 512 else c.ramSize

/-- The bytes of the layout's RTC part: 8 + 8 + 1 + 5 (R960). -/
def saveRtcFields : Nat := 22

/-- The lengths a save file may have: the RAM alone without an RTC. With one, the spec gives two lengths and does not say which
holds: "plus 18 with an RTC" (92_eei_decisions.md D48, and R960's sentence), and the 22 bytes that R960's layout adds up to. Both
load and every other is corrupt, DESIGN CHOICE (log 20). -/
def Cart.saveLengths (c : Cart) : List Nat :=
  if c.hasRtc then [c.saveRamLength + 18, c.saveRamLength + saveRtcFields] else [c.saveRamLength]

/-- A big-endian number. -/
def beNat : List Byte → Nat := List.foldl (fun n v => n * 256 + v.toNat) 0

/-- `n` as `k` bytes, big-endian. -/
def beBytes : Nat → Nat → List Byte
  | 0, _ => []
  | k + 1, n => beBytes k (n / 256) ++ [BitVec.ofNat 8 n]

/-- The RTC part of a save: the layout's fields at its offsets 0 to 21 (R960). `base` is stored modulo 2^64 (log 9). -/
def Rtc.toSave (r : Rtc) : List Byte :=
  beBytes 8 (r.base % 2 ^ 64).toNat ++ beBytes 8 r.haltTs
    ++ [if r.latchFlag then 1 else 0, r.s, r.m, r.h, r.dayl, r.dayh]

/-- The file that a save or a flush writes: the RAM, then with an RTC the whole layout of the clock (R960; log 20). -/
def saveBytes (c : Cart) (cartRam mbc2Ram : Memory) : List Byte :=
  (if c.mapper = .mbc2 then (mbc2Ram.toBytes 0 512).map fun v => v ||| 0xF0 else cartRam.toBytes 0 c.ramSize)
    ++ (if c.hasRtc then c.rtc.toSave else [])

/-- Byte `k` of an RTC part, a free value where the file ends before it, DESIGN CHOICE (log 20). -/
def saveByte (part : List Byte) (k : Nat) : Byte := part.getD k (Config.saveByteBeyondFile k)

/-- The latch flag of its saved byte: 0 and 1 are what a save writes. Any other byte loads as a free value, DESIGN CHOICE
(log 21). -/
def latchFlagOfByte (v : Byte) : Bool := if v = 0 then false else if v = 1 then true else Config.savedLatchFlag v

/-- The RTC of a save's RTC part: the layout's fields at their offsets, and `halted` the saved snapshot's DAYH bit 6 (R960,
D48). -/
def Rtc.ofSave (part : List Byte) : Rtc where
  base := beNat (part.take 8)
  halted := (saveByte part 21).getLsbD 6
  haltTs := beNat ((part.drop 8).take 8)
  latchFlag := latchFlagOfByte (saveByte part 16)
  s := saveByte part 17
  m := saveByte part 18
  h := saveByte part 19
  dayl := saveByte part 20
  dayh := saveByte part 21

/-! ## Load (R961) -/

/-- `Load`: the image, the save file if there is one, the contents `init` of the memories at reset (INIT_MEM), the wall clock,
and BOOT_CPU in each mode (R40). "A missing file is not an error" for the save (R960). With a save the RTC comes from it and
WALL_CLOCK is not read. -/
def load (image save : Option (List Byte)) (init : Memories) (wall : Nat) (bootCpu : Bool → Cpu := Cpu.boot) :
    Except LoadError State :=
  match image with
  | none => .error .fileMissing
  | some bytes =>
    match parseCart bytes with
    | .error e => .error e
    | .ok cart =>
      let gbc := headerGbc bytes
      let mem := { init with rom := Memory.ofBytes 0 (bytes.take (cart.romBanks * 0x4000)) }
      let fresh := State.resetWith gbc mem { cart with rtc := Rtc.fresh wall } wall (bootCpu gbc)
      match save with
      | none => .ok fresh
      | some file =>
        if cart.battery = false then .ok fresh
        else if file.length ∉ cart.saveLengths then .error .saveCorrupt
        else
          let ram := file.take cart.saveRamLength
          let saved :=
            if cart.mapper = .mbc2 then { mem with mbc2Ram := Memory.ofBytes 0 (ram.map fun v => v &&& 0x0F) }
            else { mem with cartRam := Memory.ofBytes 0 ram }
          if cart.hasRtc then
            let rtc := Rtc.ofSave (file.drop cart.saveRamLength)
            .ok (State.resetWith gbc saved { cart with rtc := rtc } 0 (bootCpu gbc))
          else .ok (State.resetWith gbc saved { cart with rtc := Rtc.fresh wall } wall (bootCpu gbc))

/-- The save written at shutdown, if one is due (R960). -/
def shutdownSave (s : State) : Option (List Byte) :=
  if s.cart.battery = true ∧ s.cart.dirty = true then some (saveBytes s.cart s.mem.cartRam s.mem.mbc2Ram) else none

end Sys2Proof.Machine
end

