-- ==== Sys2Proof/Safety.lean ====
section
/-! DEFINITION. The words claims use: the states a run can be in, what an instruction leaves unchanged, and the memory cell behind
a bus address. -/

namespace Sys2Proof.Machine

/-- Every memory is in canonical form and inside its size (10_state.md R45 to R50, R76; 65_cartridge.md R880, R883, R892). -/
structure Memories.Inv (m : Memories) (c : Cart) : Prop where
  rom : m.rom.wf ∧ Memory.below (c.romBanks * 0x4000) m.rom
  vram : m.vram.wf ∧ Memory.below 0x4000 m.vram
  wram : m.wram.wf ∧ Memory.below 0x8000 m.wram
  oam : m.oam.wf ∧ Memory.below oamSize m.oam
  zp : m.zp.wf ∧ Memory.below 127 m.zp
  wave : m.wave.wf ∧ Memory.below 16 m.wave
  bgPal : m.bgPal.wf ∧ Memory.below 64 m.bgPal
  objPal : m.objPal.wf ∧ Memory.below 64 m.objPal
  cartRam : m.cartRam.wf ∧ Memory.below c.ramSize m.cartRam
  mbc2Ram : m.mbc2Ram.wf ∧ Memory.below 512 m.mbc2Ram
  /-- What is held of MBC2RAM is its low nibbles (log 11). -/
  nibbles : ∀ cell ∈ m.mbc2Ram, cell.2.toNat < 16

/-- "0 ≤ LY ≤ 153; 0 ≤ line_position ≤ HTOTAL-1" (10_state.md R103). -/
structure Ppu.Inv (p : Ppu) : Prop where
  ly : p.ly < frameLines
  linePosition : p.linePosition < lineCycles

/-- Position 0..160, phase 0..3, and a running transfer has a byte left (10_state.md R101). -/
structure OamDma.Inv (d : OamDma) : Prop where
  position : d.position ≤ oamSize
  phase : d.phase < 4
  left : d.running = true → d.position < oamSize

/-- 0..128 blocks left, and an active transfer has one left (10_state.md R102). -/
structure Hdma.Inv (d : Hdma) : Prop where
  remaining : d.remaining ≤ 128
  left : d.active = true → 1 ≤ d.remaining

/-- The widths of R886: a bank register never holds more than its model gives it. -/
def Mapper.romBankLimit : Mapper → Nat
  | .plain => 512
  | .mbc1 => 128
  | .mbc2 => 16
  | .mbc3 => 128
  | .mbc5 => 512

def Mapper.ramBankLimit : Mapper → Nat
  | .plain => 16
  | .mbc1 => 4
  | .mbc2 => 16
  | .mbc3 => 16
  | .mbc5 => 16

/-- At least two banks (65_cartridge.md R880), and bank registers "masked by bit width" (R886). -/
structure Cart.Inv (c : Cart) : Prop where
  banks : 2 ≤ c.romBanks
  romBank : c.romBank.toNat < c.mapper.romBankLimit
  ramBank : c.ramBank.toNat < c.mapper.ramBankLimit

/-- What holds of every state of a run: the bounds of the spec, and a T that is a multiple of 4 (70_reset_and_hazards.md
R1004). -/
structure State.Inv (s : State) : Prop where
  mem : s.mem.Inv s.cart
  ppu : s.ppu.Inv
  dma : s.dma.Inv
  hdma : s.hdma.Inv
  samplePhase : s.spu.samplePhase < frameCycles
  time : s.t % 4 = 0
  cart : s.cart.Inv

/-- A machine that has not faulted: exactly these have a successor (60_exceptions.md R612). -/
def State.Running (s : State) : Prop := s.fault = none

/-- `t` comes after some steps from `s`. -/
inductive Reaches (s : State) : State → Prop where
  | refl : Reaches s s
  | step {t u : State} : Reaches s t → Machine.step t = .next u → Reaches s u

/-! ## Frames -/

/-- Everything but the CPU registers of `t` is as in `u`. -/
def SameOutside (u t : State) : Prop := t.withCpu u.cpu = u

/-- `d` has the registers of `c`, but for the 8-bit registers in `written` and for F. -/
structure Cpu.OnlyWrites (c d : Cpu) (written : List R8) : Prop where
  bytes : ∀ q, q ∉ written → d.get8 q = c.get8 q
  sp : d.sp = c.sp
  pc : d.pc = c.pc
  ime : d.ime = c.ime
  eiPending : d.eiPending = c.eiPending
  halted : d.halted = c.halted

/-- A cell of a memory that the bus reads and writes. -/
inductive MemCell where
  | vram (i : Nat)
  | cartRam (i : Nat)
  | mbc2Ram (i : Nat)
  | wram (i : Nat)
  | oam (i : Nat)
  | zp (i : Nat)
  | ie
  deriving DecidableEq, Repr

/-- The cell behind a bus address, where there is one (20_memory.md R153, 65_cartridge.md R888). -/
def memCell (s : State) (a : Word) : Option MemCell :=
  match locate s a with
  | .rom _ => none
  | .vram i => some (.vram i)
  | .ext off =>
    match s.cart.extLocate off with
    | .mbc2Ram i => some (.mbc2Ram i)
    | .rtc => none
    | .ram i => some (.cartRam i)
    | .absent => none
  | .wram i => some (.wram i)
  | .oam i => some (.oam i)
  | .unmapped => none
  | .io _ => none
  | .zp i => some (.zp i)
  | .ie => some .ie

/-- Whether a store may change the cell: external RAM only while it is enabled (65_cartridge.md R889). -/
def MemCell.writable (c : Cart) : MemCell → Bool
  | .vram _ => true
  | .cartRam _ => c.ramEnable
  | .mbc2Ram _ => c.ramEnable
  | .wram _ => true
  | .oam _ => true
  | .zp _ => true
  | .ie => true

/-- Whether no device writes the cell: not VRAM, which HDMA writes, nor OAM, which OAM DMA writes. -/
def MemCell.quiet : MemCell → Bool
  | .vram _ => false
  | .cartRam _ => true
  | .mbc2Ram _ => true
  | .wram _ => true
  | .oam _ => false
  | .zp _ => true
  | .ie => true

/-- The byte a cell reads as, in view of the bus or not. -/
def MemCell.value (s : State) : MemCell → Byte
  | .vram i => s.mem.vram.read i
  | .cartRam i => s.mem.cartRam.read i
  | .mbc2Ram i => 0xF0 ||| s.mem.mbc2Ram.read i
  | .wram i => s.mem.wram.read i
  | .oam i => s.mem.oam.read i
  | .zp i => s.mem.zp.read i
  | .ie => s.int.enable

/-- What the cell reads as after a store of `v`: MBC2RAM holds a nibble (65_cartridge.md R892). -/
def MemCell.reads (v : Byte) : MemCell → Byte
  | .vram _ => v
  | .cartRam _ => v
  | .mbc2Ram _ => 0xF0 ||| (v &&& 0x0F)
  | .wram _ => v
  | .oam _ => v
  | .zp _ => v
  | .ie => v

/-- `t` is `u` after a store of `v` to the memory cell `c`, and nothing else: every address reads as before but those of the
cell, every other cell of every memory holds what it held, whatever bank is in view, and every register and device is as before
but for the save flush that a store to external RAM schedules. -/
structure StoredByte (u t : State) (c : MemCell) (v : Byte) : Prop where
  value : c.value t = c.reads v
  others : ∀ d, d ≠ c → d.value t = d.value u
  rom : t.mem.rom = u.mem.rom
  wave : t.mem.wave = u.mem.wave
  bgPal : t.mem.bgPal = u.mem.bgPal
  objPal : t.mem.objPal = u.mem.objPal
  reads : ∀ b, busRead t b = if memCell u b = some c then c.reads v else busRead u b
  cells : ∀ b, memCell t b = memCell u b
  cpu : t.cpu = u.cpu
  fault : t.fault = u.fault
  time : t.t = u.t
  gbcMode : t.gbcMode = u.gbcMode
  request : t.int.request = u.int.request
  svbk : t.svbk = u.svbk
  timer : t.timer = u.timer
  dma : t.dma = u.dma
  hdma : t.hdma = u.hdma
  ppu : t.ppu = u.ppu
  spu : t.spu = u.spu
  io : t.io = u.io
  cart : t.cart = { u.cart with dirty := t.cart.dirty, flushAt := t.cart.flushAt }

/-- `Push16(v)` as its two slots and two stores, from the state `u` with SP = `sp` (00_scope.md R11). -/
def pushed (u : State) (sp v : Word) : State :=
  busWrite (cycle (busWrite (cycle u) (sp - 1) (hiByte v))) (sp - 2) (loByte v)

/-! ## The timing table (70_reset_and_hazards.md R1020) -/

/-- How many slots follow the fetches: the letters R, W and U of the row, those in brackets where the condition holds. The
second fetch of PREFIX CB is the row's own, so it has no row here. -/
def dataSlots (f : Flags) : Instr → Nat
  | .ldRR _ _ => 0
  | .ldRN _ _ => 0
  | .ldRHl _ => 1
  | .ldHlR _ => 1
  | .ldHlN _ => 1
  | .ldABc => 1
  | .ldADe => 1
  | .ldBcA => 1
  | .ldDeA => 1
  | .ldAN16 _ => 1
  | .ldN16A _ => 1
  | .ldhAN _ => 1
  | .ldhNA _ => 1
  | .ldAC => 1
  | .ldCA => 1
  | .ldAHli => 1
  | .ldAHld => 1
  | .ldHliA => 1
  | .ldHldA => 1
  | .ldRrN16 _ _ => 0
  | .ldN16Sp _ => 2
  | .ldSpHl => 1
  | .ldHlSpE _ => 1
  | .pushRr _ => 3
  | .popRr _ => 2
  | .popAf => 2
  | .addR _ => 0
  | .addHl => 1
  | .addN _ => 0
  | .adcR _ => 0
  | .adcHl => 1
  | .adcN _ => 0
  | .subR _ => 0
  | .subHl => 1
  | .subN _ => 0
  | .sbcR _ => 0
  | .sbcHl => 1
  | .sbcN _ => 0
  | .andR _ => 0
  | .andHl => 1
  | .andN _ => 0
  | .xorR _ => 0
  | .xorHl => 1
  | .xorN _ => 0
  | .orR _ => 0
  | .orHl => 1
  | .orN _ => 0
  | .cpR _ => 0
  | .cpHl => 1
  | .cpN _ => 0
  | .incR _ => 0
  | .decR _ => 0
  | .incHl => 2
  | .decHl => 2
  | .daa => 0
  | .cpl => 0
  | .scf => 0
  | .ccf => 0
  | .addHlRr _ => 1
  | .incRr _ => 1
  | .decRr _ => 1
  | .addSpE _ => 2
  | .rlca => 0
  | .rrca => 0
  | .rla => 0
  | .rra => 0
  | .rlcR _ => 0
  | .rlcHl => 2
  | .rrcR _ => 0
  | .rrcHl => 2
  | .rlR _ => 0
  | .rlHl => 2
  | .rrR _ => 0
  | .rrHl => 2
  | .slaR _ => 0
  | .slaHl => 2
  | .sraR _ => 0
  | .sraHl => 2
  | .swapR _ => 0
  | .swapHl => 2
  | .srlR _ => 0
  | .srlHl => 2
  | .bitR _ _ => 0
  | .bitHl _ => 1
  | .resR _ _ => 0
  | .resHl _ => 2
  | .setR _ _ => 0
  | .setHl _ => 2
  | .jp _ => 1
  | .jpCc cc _ => if condHolds cc f then 1 else 0
  | .jpHl => 0
  | .jr _ => 1
  | .jrCc cc _ => if condHolds cc f then 1 else 0
  | .call _ => 3
  | .callCc cc _ => if condHolds cc f then 3 else 0
  | .ret => 3
  | .retCc cc => if condHolds cc f then 4 else 1
  | .reti => 3
  | .rst _ => 3
  | .nop => 0
  | .prefixCb => 0
  | .halt => 0
  | .stop => 0
  | .di => 0
  | .ei => 0
  | .illegal _ => 0

/-! ## Which registers an instruction may write (10_state.md R33, R35) -/

/-- The instructions that write Z: all four flags, or Z, N and H (R33). -/
def writesZ : Instr → Bool
  | .ldHlSpE _ | .popAf | .addR _ | .addHl | .addN _ | .adcR _ | .adcHl | .adcN _ => true
  | .subR _ | .subHl | .subN _ | .sbcR _ | .sbcHl | .sbcN _ | .andR _ | .andHl | .andN _ => true
  | .xorR _ | .xorHl | .xorN _ | .orR _ | .orHl | .orN _ | .cpR _ | .cpHl | .cpN _ => true
  | .incR _ | .decR _ | .incHl | .decHl | .daa | .addSpE _ | .rlca | .rrca | .rla | .rra => true
  | .rlcR _ | .rlcHl | .rrcR _ | .rrcHl | .rlR _ | .rlHl | .rrR _ | .rrHl | .slaR _ | .slaHl => true
  | .sraR _ | .sraHl | .swapR _ | .swapHl | .srlR _ | .srlHl | .bitR _ _ | .bitHl _ | .prefixCb => true
  | _ => false

/-- The instructions that write C. -/
def writesC : Instr → Bool
  | .incR _ | .decR _ | .incHl | .decHl | .bitR _ _ | .bitHl _ => false
  | .addHlRr _ | .scf | .ccf => true
  | i => writesZ i

/-- The instructions that write N. -/
def writesN : Instr → Bool
  | .daa => false
  | .addHlRr _ | .cpl | .scf | .ccf => true
  | i => writesZ i

/-- The instructions that write H. -/
def writesH : Instr → Bool
  | .addHlRr _ | .cpl | .scf | .ccf => true
  | i => writesZ i

/-- The instructions that write SP (R35). -/
def writesSp : Instr → Bool
  | .ldRrN16 p _ | .incRr p | .decRr p => p == .sp
  | .ldSpHl | .pushRr _ | .popRr _ | .popAf | .addSpE _ | .call _ | .callCc _ _ | .ret | .retCc _ | .reti | .rst _ => true
  | _ => false

end Sys2Proof.Machine
end

