-- ==== Sys2Proof/Certificates/Slice0/Obligations.lean ====
section
/-! DEFINITION. The statements for the provers, each named after what it states. -/

namespace Sys2Proof.Machine

/-! ## Forms: the operand forms that several instructions share -/

/-- Where an ALU operand comes from (42_alu8.md R360). -/
inductive Src where
  | reg (r : R8)
  | mem
  | imm (n : Byte)
  deriving DecidableEq, Repr

/-- The operand `b` of R360. -/
def Src.value (s : State) : Src → Byte
  | .reg r => s.cpu.get8 r
  | .mem => busRead (cycle s) s.cpu.hl
  | .imm n => n

/-- The machine when the operand has been read: the (HL) form has spent its read slot. -/
def Src.after (s : State) : Src → State
  | .reg _ => s
  | .mem => cycle s
  | .imm _ => s

/-- The eight operations of R360, with or without a carry in, by their names. -/
inductive AluName where
  | add | adc | sub | sbc | and | xor | or | cp
  deriving DecidableEq, Repr

/-- The instruction of an operation and a form. -/
def AluName.instr : AluName → Src → Instr
  | .add, .reg r => .addR r
  | .add, .mem => .addHl
  | .add, .imm n => .addN n
  | .adc, .reg r => .adcR r
  | .adc, .mem => .adcHl
  | .adc, .imm n => .adcN n
  | .sub, .reg r => .subR r
  | .sub, .mem => .subHl
  | .sub, .imm n => .subN n
  | .sbc, .reg r => .sbcR r
  | .sbc, .mem => .sbcHl
  | .sbc, .imm n => .sbcN n
  | .and, .reg r => .andR r
  | .and, .mem => .andHl
  | .and, .imm n => .andN n
  | .xor, .reg r => .xorR r
  | .xor, .mem => .xorHl
  | .xor, .imm n => .xorN n
  | .or, .reg r => .orR r
  | .or, .mem => .orHl
  | .or, .imm n => .orN n
  | .cp, .reg r => .cpR r
  | .cp, .mem => .cpHl
  | .cp, .imm n => .cpN n

/-- The eight CB rotates and shifts (44_rotate_shift.md R424). -/
inductive ShiftName where
  | rlc | rrc | rl | rr | sla | sra | swap | srl
  deriving DecidableEq, Repr

/-- Their register form. -/
def ShiftName.regForm : ShiftName → R8 → Instr
  | .rlc, r => .rlcR r
  | .rrc, r => .rrcR r
  | .rl, r => .rlR r
  | .rr, r => .rrR r
  | .sla, r => .slaR r
  | .sra, r => .sraR r
  | .swap, r => .swapR r
  | .srl, r => .srlR r

/-- Their (HL) form. -/
def ShiftName.hlForm : ShiftName → Instr
  | .rlc => .rlcHl
  | .rrc => .rrcHl
  | .rl => .rlHl
  | .rr => .rrHl
  | .sla => .slaHl
  | .sra => .sraHl
  | .swap => .swapHl
  | .srl => .srlHl

/-- The result on numbers (R425 to R432), for the operand `b` and the carry `c`. -/
def ShiftName.result (b c : Nat) : ShiftName → Nat
  | .rlc => (2 * b + b / 128) % 256
  | .rrc => b / 2 + 128 * (b % 2)
  | .rl => (2 * b + c) % 256
  | .rr => b / 2 + 128 * c
  | .sla => 2 * b % 256
  | .sra => b / 2 + 128 * (b / 128)
  | .swap => 16 * (b % 16) + b / 16
  | .srl => b / 2

/-- The bit shifted out (R425 to R432), 0 for SWAP. -/
def ShiftName.carry (b : Nat) : ShiftName → Nat
  | .rlc => b / 128
  | .rrc => b % 2
  | .rl => b / 128
  | .rr => b % 2
  | .sla => b / 128
  | .sra => b % 2
  | .swap => 0
  | .srl => b % 2

/-- The loads of A from memory (40_load8.md R305, R307, R309, R311, R313, R314). -/
inductive LoadForm where
  | bc | de | abs (a : Word) | high (n : Byte) | highC | hli | hld
  deriving DecidableEq, Repr

def LoadForm.instr : LoadForm → Instr
  | .bc => .ldABc
  | .de => .ldADe
  | .abs a => .ldAN16 a
  | .high n => .ldhAN n
  | .highC => .ldAC
  | .hli => .ldAHli
  | .hld => .ldAHld

/-- The address read. -/
def LoadForm.address (c : Cpu) : LoadForm → Word
  | .bc => c.bc
  | .de => c.de
  | .abs a => a
  | .high n => 0xFF00 + n.zeroExtend 16
  | .highC => 0xFF00 + c.c.zeroExtend 16
  | .hli => c.hl
  | .hld => c.hl

/-- HL after the load: moved by the (HL+) and (HL-) forms alone. -/
def LoadForm.hl (c : Cpu) : LoadForm → Word
  | .bc => c.hl
  | .de => c.hl
  | .abs _ => c.hl
  | .high _ => c.hl
  | .highC => c.hl
  | .hli => c.hl + 1
  | .hld => c.hl - 1

/-- The one-byte stores (R303, R304, R306, R308, R310, R312, R315, R316). -/
inductive StoreForm where
  | hlReg (r : R8) | hlImm (n : Byte) | bc | de | abs (a : Word) | high (n : Byte) | highC | hli | hld
  deriving DecidableEq, Repr

def StoreForm.instr : StoreForm → Instr
  | .hlReg r => .ldHlR r
  | .hlImm n => .ldHlN n
  | .bc => .ldBcA
  | .de => .ldDeA
  | .abs a => .ldN16A a
  | .high n => .ldhNA n
  | .highC => .ldCA
  | .hli => .ldHliA
  | .hld => .ldHldA

/-- The address stored to. -/
def StoreForm.address (c : Cpu) : StoreForm → Word
  | .hlReg _ => c.hl
  | .hlImm _ => c.hl
  | .bc => c.bc
  | .de => c.de
  | .abs a => a
  | .high n => 0xFF00 + n.zeroExtend 16
  | .highC => 0xFF00 + c.c.zeroExtend 16
  | .hli => c.hl
  | .hld => c.hl

/-- The byte stored. -/
def StoreForm.value (c : Cpu) : StoreForm → Byte
  | .hlReg r => c.get8 r
  | .hlImm n => n
  | .bc => c.a
  | .de => c.a
  | .abs _ => c.a
  | .high _ => c.a
  | .highC => c.a
  | .hli => c.a
  | .hld => c.a

/-- HL after the store. -/
def StoreForm.hl (c : Cpu) : StoreForm → Word
  | .hlReg _ => c.hl
  | .hlImm _ => c.hl
  | .bc => c.hl
  | .de => c.hl
  | .abs _ => c.hl
  | .high _ => c.hl
  | .highC => c.hl
  | .hli => c.hl + 1
  | .hld => c.hl - 1

/-- The line a sink call carries, none for a call that carries no line. -/
def Output.line : Output → Option Nat
  | .drawLineDmg ly _ => some ly
  | .drawLineGbc ly _ => some ly
  | .flip => none
  | .audioFrame _ _ => none
  | .saveFlush _ _ _ => none

/-- The mapper codes of byte 0x0147 with their model, battery and RTC (65_cartridge.md R884). -/
def mapperTable : List (Nat × Mapper × Bool × Bool) :=
  [(0x00, .plain, false, false), (0x01, .mbc1, false, false), (0x02, .mbc1, false, false), (0x03, .mbc1, true, false),
   (0x05, .mbc2, false, false), (0x06, .mbc2, true, false), (0x08, .plain, false, false), (0x09, .plain, true, false),
   (0x0F, .mbc3, true, true), (0x10, .mbc3, true, true), (0x11, .mbc3, false, false), (0x12, .mbc3, false, false),
   (0x13, .mbc3, true, false)] ++
  [(0x19, .mbc5, false, false), (0x1A, .mbc5, false, false), (0x1C, .mbc5, false, false), (0x1D, .mbc5, false, false),
   (0x1B, .mbc5, true, false), (0x1E, .mbc5, true, false), (0xFF, .mbc1, true, false)]

/-- The codes of byte 0x0148 with their number of ROM banks (R882). -/
def romTable : List (Nat × Nat) :=
  [(0, 2), (1, 4), (2, 8), (3, 16), (4, 32), (5, 64), (6, 128), (7, 256), (8, 512), (0x52, 72), (0x53, 80), (0x54, 96)]

/-- The codes of byte 0x0149 with their number of RAM bytes (R883). -/
def ramTable : List (Nat × Nat) := [(0, 0), (1, 2048), (2, 8192), (3, 32768), (4, 131072)]

/-- 0..99 as two decimal digits in one byte. -/
def bcd (x : Nat) : Byte := BitVec.ofNat 8 (16 * (x / 10) + x % 10)

/-- A sound unit that is off with every register and every channel at 0, the noise register at 0x7FFF (10_state.md R105 to
R107). -/
def clearedSpu (samplePhase : Nat) : Spu :=
  let env : Envelope := { reg := 0, volume := 0, dir := false, steps := 0, timer := 0 }
  let pulse : Pulse :=
    { enabled := false, duty := 0, lenLoad := 0, env := env, offset := 0, lenEnable := false, lenTimer := 0, freqTimer := 0,
      phase := 0 }
  { master := false, nr50 := 0, nr51 := 0, samplePhase := samplePhase
    ch1 := pulse
    sweep := { time := 0, dir := false, shift := 0, timer := 0 }
    ch2 := pulse
    ch3 :=
      { enabled := false, dac := false, lenLoad := 0, volCode := 0, offset := 0, lenEnable := false, lenTimer := 0,
        freqTimer := 0, index := 0 }
    ch4 :=
      { enabled := false, lenLoad := 0, env := env, poly := 0, lenEnable := false, lenTimer := 0, freqTimer := 0,
        lfsr := 0x7FFF } }

/-- The machine before a step at whose boundary nothing happens: no fault, no interrupt, no EI latch, no HALT. -/
structure State.Ready (s : State) : Prop where
  fault : s.fault = none
  pending : pending s = 0
  eiPending : s.cpu.eiPending = false
  halted : s.cpu.halted = false

end Sys2Proof.Machine

open Sys2Proof Sys2Proof.Machine

/-! ## Encoding -/

/-- Words written out from the encodings of 30_encoding.md, one or more of each family. -/
def Obligations.SpecWordsDecode : Prop :=
  decode [0b01111000] = .ok (.ldRR .a .b, []) ∧
  decode [0b00111110, 0x45] = .ok (.ldRN .a 0x45, []) ∧
  decode [0b11111010, 0x44, 0xFF] = .ok (.ldAN16 0xFF44, []) ∧
  decode [0b00110001, 0xFE, 0xFF] = .ok (.ldRrN16 .sp 0xFFFE, []) ∧
  decode [0b11110101] = .ok (.pushRr .af, []) ∧
  decode [0b10001011] = .ok (.adcR .e, []) ∧
  decode [0b11010110, 0x40] = .ok (.subN 0x40, []) ∧
  decode [0b00111001] = .ok (.addHlRr .sp, []) ∧
  decode [0xCB, 0b00010101] = .ok (.rlR .l, []) ∧
  decode [0xCB, 0b01111111] = .ok (.bitR 7 .a, []) ∧
  decode [0xCB, 0b11111110] = .ok (.setHl 7, []) ∧
  decode [0b11011100, 0x00, 0xC1] = .ok (.callCc .c 0xC100, []) ∧
  decode [0b11101111] = .ok (.rst 5, []) ∧
  decode [0b01110110] = .ok (.halt, []) ∧
  decode [0b11010011] = .ok (.illegal 0xD3, [])

/-- Decoding an encoded instruction gives it back, every operand at every value, with the bytes after it untouched. The prefix
byte before another byte is no instruction by itself (47_system.md R501). That the bare byte 0xCB, with no byte after it, decodes
to the opcode table's row PREFIX_CB is the model's reading of that row (log 5, DEDUCED). -/
def Obligations.DecodeOfEncode : Prop :=
  (∀ (i : Instr) (rest : List Byte), i.wf = true → i ≠ .prefixCb → decode (encode i ++ rest) = .ok (i, rest)) ∧
  decode (encode .prefixCb) = .ok (.prefixCb, [])

/-- Every byte string that decodes is the encoding of the well-formed instruction it decodes to; and decoding is total:
three bytes always hold an instruction, which is illegal exactly when the first byte is one of the eleven undefined opcodes
(30_encoding.md R210, R211), and every second byte of the prefix is an instruction. -/
def Obligations.DecodeIsOnto : Prop :=
  (∀ (bytes : List Byte) (i : Instr) (rest : List Byte),
     decode bytes = .ok (i, rest) → encode i ++ rest = bytes ∧ i.wf = true) ∧
  (∀ (op b1 b2 : Byte) (rest : List Byte), ∃ i after,
     decode (op :: b1 :: b2 :: rest) = .ok (i, after) ∧
     (op ∈ illegalOpcodes → i = .illegal op) ∧
     (op ∉ illegalOpcodes → ∀ x, i ≠ .illegal x) ∧
     i ≠ .prefixCb)

/-! ## The step -/

/-- When the bytes that the fetch slots read at PC are the encoding of a well-formed instruction, the step is that
instruction's meaning on the machine with those slots spent and PC past the bytes. What the step does first is `boundary`,
which is nothing on a machine with no pending interrupt and no EI latch (60_exceptions.md R601). -/
def Obligations.StepRunsDecoded : Prop :=
  (∀ (s : State) (i : Instr),
    s.fault = none → (boundary s).cpu.halted = false → i.wf = true → i ≠ .prefixCb →
    (∀ k, k < (encode i).length →
      busRead (repeatN cycle (k + 1) (boundary s)) ((boundary s).cpu.pc + BitVec.ofNat 16 k) = (encode i).getD k 0) →
    step s =
      exec i ((repeatN cycle (encode i).length (boundary s)).setPc
        ((boundary s).cpu.pc + BitVec.ofNat 16 (encode i).length))) ∧
  (∀ s : State, s.Ready → boundary s = s)

/-- PREFIX CB fetches the second byte and is then that byte's row of the CB map, for every second byte (47_system.md R501). -/
def Obligations.PrefixRunsCbMap : Prop :=
  ∀ s : State,
    exec .prefixCb s =
      exec (decodeCb (busRead (cycle s) s.cpu.pc)) ((cycle s).withCpu { s.cpu with pc := s.cpu.pc + 1 }) ∧
    ∃ t, exec .prefixCb s = .next t ∧ t.fault = s.fault

/-- Every instruction completes in every state, in the slots of the timing table; the one store that can take longer starts a
bulk HDMA, which DMG mode does not have (70_reset_and_hazards.md R1020, R1011). That STOP and the undefined opcodes answer a
next state, the one with FAULT set, is the model's reading of 60_exceptions.md R612 (log 4, DEDUCED), and no rule's. -/
def Obligations.EveryInstructionCompletes : Prop :=
  ∀ (i : Instr) (s : State), i ≠ .prefixCb → ∃ t, exec i s = .next t ∧
    s.t + 4 * dataSlots s.cpu.f i ≤ t.t ∧ (s.gbcMode = false → t.t = s.t + 4 * dataSlots s.cpu.f i)

/-! ## Registers -/

/-- A register reads back what was written and no other changes; a pair is its two bytes, high first; F keeps a zero low
nibble (10_state.md R30, R31, R32). Which register each operand names: the r8 codes, the pairs of LD, ADD, INC and DEC, those
that PUSH reads and those that POP writes (30_encoding.md R202, R203; 41_load16_stack.md R334, R335). -/
def Obligations.RegisterFile : Prop :=
  (∀ (c : Cpu) (r q : R8) (v : Byte), (c.set8 r v).get8 q = if q = r then v else c.get8 q) ∧
  (∀ (c : Cpu) (r : R8) (v : Byte), (c.set8 r v).f = c.f ∧ (c.set8 r v).sp = c.sp ∧ (c.set8 r v).pc = c.pc) ∧
  (∀ (c : Cpu) (p q : R16) (v : Word), (c.set16 p v).get16 q = if q = p then v else c.get16 q) ∧
  (∀ c : Cpu, c.bc.toNat = 256 * c.b.toNat + c.c.toNat ∧ c.de.toNat = 256 * c.d.toNat + c.e.toNat ∧
    c.hl.toNat = 256 * c.h.toNat + c.l.toNat ∧ c.af.toNat = 256 * c.a.toNat + c.f.toByte.toNat) ∧
  (∀ (c : Cpu) (v : Word), (c.setAf v).af = v &&& 0xFFF0) ∧
  (∀ f : Flags, f.toByte.toNat = 128 * f.z.toNat + 64 * f.n.toNat + 32 * f.h.toNat + 16 * f.c.toNat) ∧
  (∀ c : Cpu, [R8.b, .c, .d, .e, .h, .l, .a].map c.get8 = [c.b, c.c, c.d, c.e, c.h, c.l, c.a] ∧
    [R16.bc, .de, .hl, .sp].map c.get16 = [c.bc, c.de, c.hl, c.sp] ∧
    [R16q.bc, .de, .hl, .af].map c.get16q = [c.bc, c.de, c.hl, c.af]) ∧
  (∀ (c : Cpu) (v : Word),
    (c.set16p .bc v).bc = v ∧ c.set16p .bc v = { c with b := (c.set16p .bc v).b, c := (c.set16p .bc v).c } ∧
    (c.set16p .de v).de = v ∧ c.set16p .de v = { c with d := (c.set16p .de v).d, e := (c.set16p .de v).e } ∧
    (c.set16p .hl v).hl = v ∧ c.set16p .hl v = { c with h := (c.set16p .hl v).h, l := (c.set16p .hl v).l })

/-! ## Loads -/

/-- LD r,r'; LD r,n8; LD r,(HL): the destination takes the value, nothing else changes but what the read slot's devices do
(40_load8.md R300, R301, R302). -/
def Obligations.LoadRegister : Prop :=
  ∀ (s : State) (dst : R8),
    (∀ src, ∃ t, exec (.ldRR dst src) s = .next t ∧ t.cpu.get8 dst = s.cpu.get8 src ∧
      s.cpu.OnlyWrites t.cpu [dst] ∧ t.cpu.f = s.cpu.f ∧ SameOutside s t) ∧
    (∀ n, ∃ t, exec (.ldRN dst n) s = .next t ∧ t.cpu.get8 dst = n ∧
      s.cpu.OnlyWrites t.cpu [dst] ∧ t.cpu.f = s.cpu.f ∧ SameOutside s t) ∧
    (∃ t, exec (.ldRHl dst) s = .next t ∧ t.cpu.get8 dst = busRead (cycle s) s.cpu.hl ∧
      s.cpu.OnlyWrites t.cpu [dst] ∧ t.cpu.f = s.cpu.f ∧ SameOutside (cycle s) t)

/-- The loads of A from memory: A takes the byte at the address, HL moves in the (HL+) and (HL-) forms alone, and nothing else
changes but what the read slot's devices do (R305, R307, R309, R311, R313, R314). -/
def Obligations.LoadAccumulator : Prop :=
  ∀ (s : State) (form : LoadForm), ∃ t, exec form.instr s = .next t ∧
    t.cpu.a = busRead (cycle s) (form.address s.cpu) ∧ t.cpu.hl = form.hl s.cpu ∧
    s.cpu.OnlyWrites t.cpu [.a, .h, .l] ∧ t.cpu.f = s.cpu.f ∧ SameOutside (cycle s) t

/-- The one-byte stores: the slot, then the bus write of the value at the address; no register changes but HL in the (HL+)
and (HL-) forms (R303, R304, R306, R308, R310, R312, R315, R316). Where the address is a writable memory cell, every byte of
memory outside it reads as after the slot, and every memory that no device writes reads as before the instruction. -/
def Obligations.StoreByte : Prop :=
  ∀ (s : State) (form : StoreForm), ∃ t, exec form.instr s = .next t ∧
    SameOutside (busWrite (cycle s) (form.address s.cpu) (form.value s.cpu)) t ∧
    t.cpu.hl = form.hl s.cpu ∧ s.cpu.OnlyWrites t.cpu [.h, .l] ∧ t.cpu.f = s.cpu.f ∧
    (∀ c, memCell s (form.address s.cpu) = some c → c.writable s.cart = true →
      (∀ b, busRead t b = if memCell s b = some c then c.reads (form.value s.cpu) else busRead (cycle s) b) ∧
      (∀ b d, memCell s b = some d → d.quiet = true → d ≠ c → busRead t b = busRead s b))

/-- A bus write to a writable memory cell is that one byte, in every memory and whatever bank is in view, and nothing else but
the save flush it schedules for external RAM; a write to disabled external RAM, to an absent one (on MBC3 also where ram_sel
selects neither a RAM bank nor an RTC register that is there), to 0xFEA0..0xFEFF and to the ROM of a cartridge without a mapper
is nothing (20_memory.md R154, R159, 65_cartridge.md R889, R890). -/
def Obligations.BusWriteFrame : Prop :=
  (∀ (u : State) (a : Word) (v : Byte) (c : MemCell), memCell u a = some c → c.writable u.cart = true →
    StoredByte u (busWrite u a v) c v ∧
    ((∀ i, c ≠ .cartRam i ∧ c ≠ .mbc2Ram i) → (busWrite u a v).cart = u.cart) ∧
    ((∃ i, c = .cartRam i ∨ c = .mbc2Ram i) →
      (busWrite u a v).cart.dirty = true ∧ (busWrite u a v).cart.flushAt = u.t + 3 * cpuHz)) ∧
  (∀ (u : State) (a : Word) (v : Byte),
    (0xA000 ≤ a.toNat ∧ a.toNat < 0xC000 ∧ u.cart.ramEnable = false) ∨
    (0xA000 ≤ a.toNat ∧ a.toNat < 0xC000 ∧ u.cart.mapper ≠ .mbc2 ∧ u.cart.mapper ≠ .mbc3 ∧ u.cart.ramSize = 0) ∨
    (0xA000 ≤ a.toNat ∧ a.toNat < 0xC000 ∧ u.cart.mapper = .mbc3 ∧ (u.cart.ramSize = 0 ∨ 3 < u.cart.ramSel.toNat) ∧
      ¬(u.cart.hasRtc = true ∧ 8 ≤ u.cart.ramSel.toNat ∧ u.cart.ramSel.toNat ≤ 12)) ∨
    (0xFEA0 ≤ a.toNat ∧ a.toNat < 0xFF00) ∨ (a.toNat < 0x8000 ∧ u.cart.mapper = .plain) →
    busWrite u a v = u)

/-- LD rr,n16; LD SP,HL; POP rr; POP AF (41_load16_stack.md R330, R332, R335, R336). -/
def Obligations.LoadPair : Prop :=
  ∀ s : State,
    (∀ (p : R16) (v : Word), ∃ t, exec (.ldRrN16 p v) s = .next t ∧ SameOutside s t ∧ t.cpu.f = s.cpu.f ∧
      (∀ q, t.cpu.get16 q = if q = p then v else s.cpu.get16 q) ∧ t.cpu.a = s.cpu.a ∧ t.cpu.pc = s.cpu.pc ∧
      t.cpu.ime = s.cpu.ime ∧ t.cpu.eiPending = s.cpu.eiPending ∧ t.cpu.halted = s.cpu.halted) ∧
    exec .ldSpHl s = .next ((cycle s).withCpu { s.cpu with sp := s.cpu.hl }) ∧
    (∀ q : R16p, exec (.popRr q) s =
      .next ((cycle (cycle s)).withCpu
        (({ s.cpu with sp := s.cpu.sp + 2 } : Cpu).set16p q
          (cat16 (busRead (cycle (cycle s)) (s.cpu.sp + 1)) (busRead (cycle s) s.cpu.sp))))) ∧
    exec .popAf s =
      .next ((cycle (cycle s)).withCpu
        { s.cpu with
          sp := s.cpu.sp + 2
          a := busRead (cycle (cycle s)) (s.cpu.sp + 1)
          f :=
            { z := (busRead (cycle s) s.cpu.sp).getLsbD 7
              n := (busRead (cycle s) s.cpu.sp).getLsbD 6
              h := (busRead (cycle s) s.cpu.sp).getLsbD 5
              c := (busRead (cycle s) s.cpu.sp).getLsbD 4 } })

/-- LD HL,SP+e8 and ADD SP,e8: the sum of SP and the signed displacement, Z and N 0, H and C from the unsigned sum of the low
bytes (R333, 43_alu16.md R403). -/
def Obligations.StackPointerPlusDisplacement : Prop :=
  ∀ (s : State) (e : Byte),
    (∃ t, exec (.ldHlSpE e) s = .next t ∧ SameOutside (cycle s) t ∧ s.cpu.OnlyWrites t.cpu [.h, .l] ∧
      (t.cpu.hl.toNat : Int) = ((s.cpu.sp.toNat : Int) + e.toInt) % 65536 ∧
      t.cpu.f =
        { z := false, n := false, h := decide (s.cpu.sp.toNat % 16 + e.toNat % 16 > 0xF),
          c := decide (s.cpu.sp.toNat % 256 + e.toNat > 0xFF) }) ∧
    (∃ t, exec (.addSpE e) s = .next t ∧
      (t.cpu.sp.toNat : Int) = ((s.cpu.sp.toNat : Int) + e.toInt) % 65536 ∧
      t = (cycle (cycle s)).withCpu
        { s.cpu with
          sp := t.cpu.sp
          f :=
            { z := false, n := false, h := decide (s.cpu.sp.toNat % 16 + e.toNat % 16 > 0xF),
              c := decide (s.cpu.sp.toNat % 256 + e.toNat > 0xFF) } })

/-- The two-byte stores: PUSH rr, CALL, CALL cc taken and RST push after an internal slot, high byte first; LD (n16),SP
stores the low byte first. No register changes but SP and, for a call, PC (41_load16_stack.md R331, R334, 46_control.md
R476, R477, R481). And a push into memory that no device writes leaves its two bytes there, the high byte at SP - 1 and the
low byte at SP - 2, and every other such memory reads as before (20_memory.md R165, 00_scope.md R11). -/
def Obligations.StoreWord : Prop :=
  (∀ s : State,
     (∀ q, exec (.pushRr q) s =
       .next ((pushed (cycle s) s.cpu.sp (s.cpu.get16q q)).withCpu { s.cpu with sp := s.cpu.sp - 2 })) ∧
     (∀ a, exec (.call a) s =
       .next ((pushed (cycle s) s.cpu.sp s.cpu.pc).withCpu { s.cpu with sp := s.cpu.sp - 2, pc := a })) ∧
     (∀ cc a, exec (.callCc cc a) s =
       .next (if condHolds cc s.cpu.f then
         (pushed (cycle s) s.cpu.sp s.cpu.pc).withCpu { s.cpu with sp := s.cpu.sp - 2, pc := a } else s)) ∧
     (∀ t : Index3, exec (.rst t) s =
       .next ((pushed (cycle s) s.cpu.sp s.cpu.pc).withCpu
         { s.cpu with sp := s.cpu.sp - 2, pc := BitVec.ofNat 16 (8 * t.toNat) })) ∧
     (∀ a, exec (.ldN16Sp a) s =
       .next (busWrite (cycle (busWrite (cycle s) a (loByte s.cpu.sp))) (a + 1) (hiByte s.cpu.sp)))) ∧
  (∀ (u : State) (sp v : Word) (c1 c2 : MemCell),
     memCell u (sp - 1) = some c1 → memCell u (sp - 2) = some c2 → c1.quiet = true → c2.quiet = true →
     c1.writable u.cart = true → c2.writable u.cart = true →
     busRead (pushed u sp v) (sp - 2) = c2.reads (loByte v) ∧
     busRead (pushed u sp v) (sp - 1) = (if c1 = c2 then c2.reads (loByte v) else c1.reads (hiByte v)) ∧
     (∀ b d, memCell u b = some d → d.quiet = true → d ≠ c1 → d ≠ c2 → busRead (pushed u sp v) b = busRead u b))

/-! ## Arithmetic and logic -/

/-- ADD and ADC: the sum modulo 256 and its flags, H the carry out of bit 3, C the carry out of bit 7 (42_alu8.md R361, R362);
only A and F change, in each of the three operand forms (R360). -/
def Obligations.AddResult : Prop :=
  ∀ (s : State) (src : Src),
    let a := s.cpu.a.toNat
    let b := (src.value s).toNat
    let c := s.cpu.f.c.toNat
    exec (AluName.add.instr src) s =
      .next ((src.after s).withCpu
        { s.cpu with
          a := BitVec.ofNat 8 (a + b)
          f :=
            { z := decide ((a + b) % 256 = 0), n := false, h := decide (a % 16 + b % 16 > 0xF),
              c := decide (a + b > 0xFF) } }) ∧
    exec (AluName.adc.instr src) s =
      .next ((src.after s).withCpu
        { s.cpu with
          a := BitVec.ofNat 8 (a + b + c)
          f :=
            { z := decide ((a + b + c) % 256 = 0), n := false, h := decide (a % 16 + b % 16 + c > 0xF),
              c := decide (a + b + c > 0xFF) } })

/-- SUB, SBC and CP: H is 1 exactly when `a[3:0] < b[3:0]`, or `a[3:0] < b[3:0] + c`, and C when the difference is negative;
CP leaves A (R363, R364, R368). -/
def Obligations.SubResult : Prop :=
  ∀ (s : State) (src : Src),
    let a := s.cpu.a.toNat
    let b := (src.value s).toNat
    let c := s.cpu.f.c.toNat
    exec (AluName.sub.instr src) s =
      .next ((src.after s).withCpu
        { s.cpu with
          a := BitVec.ofNat 8 (a + 256 - b)
          f := { z := decide (a = b), n := true, h := decide (a % 16 < b % 16), c := decide (a < b) } }) ∧
    exec (AluName.sbc.instr src) s =
      .next ((src.after s).withCpu
        { s.cpu with
          a := BitVec.ofNat 8 (a + 256 - b - c)
          f :=
            { z := decide ((a + 256 - b - c) % 256 = 0), n := true, h := decide (a % 16 < b % 16 + c),
              c := decide (a < b + c) } }) ∧
    exec (AluName.cp.instr src) s =
      .next ((src.after s).withCpu
        { s.cpu with f := { z := decide (a = b), n := true, h := decide (a % 16 < b % 16), c := decide (a < b) } })

/-- AND, XOR and OR, bit by bit, with their flags (R365, R366, R367); CPL, SCF and CCF (R374, R375, R376). -/
def Obligations.LogicResult : Prop :=
  (∀ (s : State) (src : Src),
     (∃ t, exec (AluName.and.instr src) s = .next t ∧ SameOutside (src.after s) t ∧ s.cpu.OnlyWrites t.cpu [.a] ∧
       (∀ k, t.cpu.a.getLsbD k = (s.cpu.a.getLsbD k && (src.value s).getLsbD k)) ∧
       t.cpu.f = { z := decide (t.cpu.a = 0), n := false, h := true, c := false }) ∧
     (∃ t, exec (AluName.xor.instr src) s = .next t ∧ SameOutside (src.after s) t ∧ s.cpu.OnlyWrites t.cpu [.a] ∧
       (∀ k, t.cpu.a.getLsbD k = (s.cpu.a.getLsbD k ^^ (src.value s).getLsbD k)) ∧
       t.cpu.f = { z := decide (t.cpu.a = 0), n := false, h := false, c := false }) ∧
     (∃ t, exec (AluName.or.instr src) s = .next t ∧ SameOutside (src.after s) t ∧ s.cpu.OnlyWrites t.cpu [.a] ∧
       (∀ k, t.cpu.a.getLsbD k = (s.cpu.a.getLsbD k || (src.value s).getLsbD k)) ∧
       t.cpu.f = { z := decide (t.cpu.a = 0), n := false, h := false, c := false })) ∧
  (∀ s : State,
     (∃ t, exec .cpl s = .next t ∧ SameOutside s t ∧ s.cpu.OnlyWrites t.cpu [.a] ∧
       t.cpu.a.toNat = 255 - s.cpu.a.toNat ∧ t.cpu.f = { s.cpu.f with n := true, h := true }) ∧
     exec .scf s = .next (s.withCpu { s.cpu with f := { s.cpu.f with n := false, h := false, c := true } }) ∧
     exec .ccf s = .next (s.withCpu { s.cpu with f := { s.cpu.f with n := false, h := false, c := !s.cpu.f.c } }))

/-- INC and DEC of a register and of the byte at HL: the result modulo 256, H when the low nibble wraps, C kept; the (HL) form
reads in one slot and writes in the next (R369 to R372). -/
def Obligations.IncDecResult : Prop :=
  ∀ s : State,
    (∀ r, ∃ t, exec (.incR r) s = .next t ∧ SameOutside s t ∧ s.cpu.OnlyWrites t.cpu [r] ∧
      (t.cpu.get8 r).toNat = ((s.cpu.get8 r).toNat + 1) % 256 ∧
      t.cpu.f =
        { z := decide ((s.cpu.get8 r).toNat = 255), n := false, h := decide ((s.cpu.get8 r).toNat % 16 = 15),
          c := s.cpu.f.c }) ∧
    (∀ r, ∃ t, exec (.decR r) s = .next t ∧ SameOutside s t ∧ s.cpu.OnlyWrites t.cpu [r] ∧
      (t.cpu.get8 r).toNat = ((s.cpu.get8 r).toNat + 255) % 256 ∧
      t.cpu.f =
        { z := decide ((s.cpu.get8 r).toNat = 1), n := true, h := decide ((s.cpu.get8 r).toNat % 16 = 0),
          c := s.cpu.f.c }) ∧
    (let v := (busRead (cycle s) s.cpu.hl).toNat
     exec .incHl s =
      .next ((busWrite (cycle (cycle s)) s.cpu.hl (BitVec.ofNat 8 (v + 1))).withCpu
        { s.cpu with
          f := { z := decide (v = 255), n := false, h := decide (v % 16 = 15), c := s.cpu.f.c } }) ∧
     exec .decHl s =
      .next ((busWrite (cycle (cycle s)) s.cpu.hl (BitVec.ofNat 8 (v + 255))).withCpu
        { s.cpu with
          f := { z := decide (v = 1), n := true, h := decide (v % 16 = 0), c := s.cpu.f.c } }))

/-- DAA: A by the rule's two branches, Z on the final A, H cleared, C set where the high adjust applied, N kept, nothing
else changed (R373); and so the sum and the difference of two decimal bytes are decimal again, with C the decimal carry or
borrow. -/
def Obligations.DecimalAdjust : Prop :=
  (∀ s : State, ∃ t, exec .daa s = .next t ∧ SameOutside s t ∧ s.cpu.OnlyWrites t.cpu [.a] ∧
    t.cpu.f.z = decide (t.cpu.a = 0) ∧ t.cpu.f.n = s.cpu.f.n ∧ t.cpu.f.h = false ∧
    t.cpu.f.c = (s.cpu.f.c || (!s.cpu.f.n && decide (s.cpu.a.toNat > 0x99))) ∧
    (s.cpu.f.n = false →
      t.cpu.a.toNat =
        (s.cpu.a.toNat + (if t.cpu.f.c then 0x60 else 0)
          + (if s.cpu.f.h = true ∨ s.cpu.a.toNat % 16 > 9 then 0x06 else 0)) % 256) ∧
    (s.cpu.f.n = true →
      (t.cpu.a.toNat + (if s.cpu.f.c then 0x60 else 0) + (if s.cpu.f.h then 0x06 else 0)) % 256 = s.cpu.a.toNat)) ∧
  (∀ (s u : State) (x y : Nat), x < 100 → y < 100 → s.cpu.a = bcd x →
    (exec (.addN (bcd y)) s = .next u → ∃ t, exec .daa u = .next t ∧
      t.cpu.a = bcd ((x + y) % 100) ∧ t.cpu.f.c = decide (100 ≤ x + y)) ∧
    (exec (.subN (bcd y)) s = .next u → ∃ t, exec .daa u = .next t ∧
      t.cpu.a = bcd ((x + 100 - y) % 100) ∧ t.cpu.f.c = decide (x < y)))

/-- ADD HL,rr with H the carry out of bit 11 and C the carry out of bit 15; INC rr and DEC rr with no flag (43_alu16.md R400,
R401, R402). -/
def Obligations.PairArithmetic : Prop :=
  ∀ (s : State) (p : R16),
    let a := s.cpu.hl.toNat
    let b := (s.cpu.get16 p).toNat
    (∃ t, exec (.addHlRr p) s = .next t ∧ SameOutside (cycle s) t ∧ s.cpu.OnlyWrites t.cpu [.h, .l] ∧
      t.cpu.hl.toNat = (a + b) % 65536 ∧
      t.cpu.f =
        { z := s.cpu.f.z, n := false, h := decide (a % 4096 + b % 4096 > 0xFFF), c := decide (a + b > 0xFFFF) }) ∧
    (∃ t, exec (.incRr p) s = .next t ∧ SameOutside (cycle s) t ∧ t.cpu.f = s.cpu.f ∧
      (t.cpu.get16 p).toNat = (b + 1) % 65536 ∧ (∀ q, q ≠ p → t.cpu.get16 q = s.cpu.get16 q) ∧
      t.cpu.a = s.cpu.a ∧ t.cpu.pc = s.cpu.pc ∧ t.cpu.ime = s.cpu.ime ∧ t.cpu.eiPending = s.cpu.eiPending ∧
      t.cpu.halted = s.cpu.halted) ∧
    (∃ t, exec (.decRr p) s = .next t ∧ SameOutside (cycle s) t ∧ t.cpu.f = s.cpu.f ∧
      (t.cpu.get16 p).toNat = (b + 65535) % 65536 ∧ (∀ q, q ≠ p → t.cpu.get16 q = s.cpu.get16 q) ∧
      t.cpu.a = s.cpu.a ∧ t.cpu.pc = s.cpu.pc ∧ t.cpu.ime = s.cpu.ime ∧ t.cpu.eiPending = s.cpu.eiPending ∧
      t.cpu.halted = s.cpu.halted)

/-! ## Rotates, shifts and bits -/

/-- The eight CB rotates and shifts in both operand forms: the result, Z on the result, N and H 0, C the bit shifted out;
the (HL) form reads in one slot and writes in the next (44_rotate_shift.md R424 to R432). RLCA, RRCA, RLA and RRA: A rotated
the same way, Z forced to 0 whatever the result (R420 to R423). -/
def Obligations.ShiftResult : Prop :=
  (∀ (s : State) (op : ShiftName),
     (∀ r, let b := (s.cpu.get8 r).toNat
       ∃ t, exec (op.regForm r) s = .next t ∧ SameOutside s t ∧ s.cpu.OnlyWrites t.cpu [r] ∧
       (t.cpu.get8 r).toNat = op.result b s.cpu.f.c.toNat ∧
       t.cpu.f =
         { z := decide (op.result b s.cpu.f.c.toNat = 0), n := false, h := false, c := decide (op.carry b = 1) }) ∧
     (let b := (busRead (cycle s) s.cpu.hl).toNat
      exec op.hlForm s =
       .next ((busWrite (cycle (cycle s)) s.cpu.hl (BitVec.ofNat 8 (op.result b s.cpu.f.c.toNat))).withCpu
         { s.cpu with
           f :=
             { z := decide (op.result b s.cpu.f.c.toNat = 0), n := false, h := false, c := decide (op.carry b = 1) } }))) ∧
  (∀ s : State,
     let b := s.cpu.a.toNat
     let c := s.cpu.f.c.toNat
     (∃ t, exec .rlca s = .next t ∧ SameOutside s t ∧ s.cpu.OnlyWrites t.cpu [.a] ∧
       t.cpu.a.toNat = (2 * b + b / 128) % 256 ∧ t.cpu.f = { z := false, n := false, h := false, c := decide (b / 128 = 1) }) ∧
     (∃ t, exec .rrca s = .next t ∧ SameOutside s t ∧ s.cpu.OnlyWrites t.cpu [.a] ∧
       t.cpu.a.toNat = b / 2 + 128 * (b % 2) ∧ t.cpu.f = { z := false, n := false, h := false, c := decide (b % 2 = 1) }) ∧
     (∃ t, exec .rla s = .next t ∧ SameOutside s t ∧ s.cpu.OnlyWrites t.cpu [.a] ∧
       t.cpu.a.toNat = (2 * b + c) % 256 ∧ t.cpu.f = { z := false, n := false, h := false, c := decide (b / 128 = 1) }) ∧
     (∃ t, exec .rra s = .next t ∧ SameOutside s t ∧ s.cpu.OnlyWrites t.cpu [.a] ∧
       t.cpu.a.toNat = b / 2 + 128 * c ∧ t.cpu.f = { z := false, n := false, h := false, c := decide (b % 2 = 1) }))

/-- BIT, RES and SET on a register and on the byte at HL: BIT writes Z, N and H and no operand; RES and SET write the one
bit and no flag (45_bit.md R450, R451, R452). -/
def Obligations.BitResult : Prop :=
  ∀ (s : State) (b : Index3),
    (∀ r, exec (.bitR b r) s =
      .next (s.withCpu
        { s.cpu with f := { z := !(s.cpu.get8 r).getLsbD b.toNat, n := false, h := true, c := s.cpu.f.c } })) ∧
    exec (.bitHl b) s =
      .next ((cycle s).withCpu
        { s.cpu with
          f := { z := !(busRead (cycle s) s.cpu.hl).getLsbD b.toNat, n := false, h := true, c := s.cpu.f.c } }) ∧
    (∀ r, ∃ t, exec (.resR b r) s = .next t ∧ SameOutside s t ∧ s.cpu.OnlyWrites t.cpu [r] ∧ t.cpu.f = s.cpu.f ∧
      ∀ k, k < 8 → (t.cpu.get8 r).getLsbD k = if k = b.toNat then false else (s.cpu.get8 r).getLsbD k) ∧
    (∀ r, ∃ t, exec (.setR b r) s = .next t ∧ SameOutside s t ∧ s.cpu.OnlyWrites t.cpu [r] ∧ t.cpu.f = s.cpu.f ∧
      ∀ k, k < 8 → (t.cpu.get8 r).getLsbD k = if k = b.toNat then true else (s.cpu.get8 r).getLsbD k) ∧
    (∃ v : Byte, exec (.resHl b) s = .next ((busWrite (cycle (cycle s)) s.cpu.hl v).withCpu s.cpu) ∧
      ∀ k, k < 8 → v.getLsbD k = if k = b.toNat then false else (busRead (cycle s) s.cpu.hl).getLsbD k) ∧
    (∃ v : Byte, exec (.setHl b) s = .next ((busWrite (cycle (cycle s)) s.cpu.hl v).withCpu s.cpu) ∧
      ∀ k, k < 8 → v.getLsbD k = if k = b.toNat then true else (busRead (cycle s) s.cpu.hl).getLsbD k)

/-! ## Control transfer and system -/

/-- The jumps: PC takes the target, with a slot for the PC load (none for JP HL), or nothing happens where the condition fails
(46_control.md R470 to R475). -/
def Obligations.Jumps : Prop :=
  ∀ s : State,
    (∀ a, exec (.jp a) s = .next ((cycle s).withCpu { s.cpu with pc := a })) ∧
    (∀ cc a, exec (.jpCc cc a) s =
      .next (if condHolds cc s.cpu.f then (cycle s).withCpu { s.cpu with pc := a } else s)) ∧
    exec .jpHl s = .next (s.withCpu { s.cpu with pc := s.cpu.hl }) ∧
    (∀ e : Byte, ∃ t, exec (.jr e) s = .next t ∧ t = (cycle s).withCpu { s.cpu with pc := t.cpu.pc } ∧
      (t.cpu.pc.toNat : Int) = ((s.cpu.pc.toNat : Int) + e.toInt) % 65536) ∧
    (∀ (cc : Cond) (e : Byte), ∃ t, exec (.jrCc cc e) s = .next t ∧
      if condHolds cc s.cpu.f then
        t = (cycle s).withCpu { s.cpu with pc := t.cpu.pc } ∧
          (t.cpu.pc.toNat : Int) = ((s.cpu.pc.toNat : Int) + e.toInt) % 65536
      else t = s) ∧
    (∀ f : Flags, condHolds .nz f = !f.z ∧ condHolds .z f = f.z ∧ condHolds .nc f = !f.c ∧ condHolds .c f = f.c)

/-- RET, RET cc and RETI: PC takes the two bytes popped, low byte first; RET cc spends a slot on the test; RETI sets IME at
once and leaves the EI latch (R478, R479, R480). -/
def Obligations.Returns : Prop :=
  ∀ s : State,
    exec .ret s =
      .next ((cycle (cycle (cycle s))).withCpu
        { s.cpu with
          sp := s.cpu.sp + 2
          pc := cat16 (busRead (cycle (cycle s)) (s.cpu.sp + 1)) (busRead (cycle s) s.cpu.sp) }) ∧
    exec .reti s =
      .next ((cycle (cycle (cycle s))).withCpu
        { s.cpu with
          sp := s.cpu.sp + 2
          pc := cat16 (busRead (cycle (cycle s)) (s.cpu.sp + 1)) (busRead (cycle s) s.cpu.sp)
          ime := true }) ∧
    (∀ cc, exec (.retCc cc) s =
      .next (if condHolds cc s.cpu.f then
          (cycle (cycle (cycle (cycle s)))).withCpu
            { s.cpu with
              sp := s.cpu.sp + 2
              pc := cat16 (busRead (cycle (cycle (cycle s))) (s.cpu.sp + 1)) (busRead (cycle (cycle s)) s.cpu.sp) }
        else cycle s))

/-! ## Faults -/

/-- The fatal instructions: the state at the fault is the state after the opcode fetch (PC plus 1, T plus 4 and nothing else
of the CPU's doing), FAULT holds the kind, the opcode and its address, and there is no step after it (60_exceptions.md R610,
R612; 47_system.md R503, R506). That the fault is a next state and the step after it answers the fault is the model's
reading (log 4). -/
def Obligations.FatalInstructions : Prop :=
  ∀ (s : State) (op : Byte), s.Ready → busRead (cycle s) s.cpu.pc = op →
    (op ∈ illegalOpcodes →
      step s =
        .next { (cycle s).withCpu { s.cpu with pc := s.cpu.pc + 1 } with
          fault := some { kind := .illegalOpcode, opcode := op, pc := s.cpu.pc } }) ∧
    (op = 0x10 →
      step s =
        .next { (cycle s).withCpu { s.cpu with pc := s.cpu.pc + 1 } with
          fault := some { kind := .stop, opcode := 0x10, pc := s.cpu.pc } }) ∧
    (∀ i : Instr, (i = .stop ∨ ∃ x, i = .illegal x) → ∀ t, exec i s = .next t → ∃ r, step t = .fault (.fatal r))

/-- The machine stops exactly where FAULT is set, with that record, and never in another way; and only STOP and the undefined
opcodes set FAULT (60_exceptions.md R610, R611, R612). -/
def Obligations.StopsOnlyOnFault : Prop :=
  (∀ (s : State) (f : Fault), step s = .fault f ↔ ∃ r, s.fault = some r ∧ f = .fatal r) ∧
  (∀ (s : State) (r : Refusal), step s ≠ .refused r) ∧
  (∀ s t : State, step s = .next t → t.fault ≠ none → ∃ r, t.fault = some r ∧
     ((r.kind = .stop ∧ r.opcode = 0x10) ∨ (r.kind = .illegalOpcode ∧ r.opcode ∈ illegalOpcodes)) ∧
     t.cpu.pc = r.pc + 1)

/-! ## Whole-machine rules -/

/-- Who writes IME, the EI latch and HALTED (10_state.md R36, R37, R38); and that NOP, HALT, DI and EI change nothing else
(47_system.md R500, R502, R504, R505). -/
def Obligations.ControlBitWriters : Prop :=
  (∀ (i : Instr) (s t : State), exec i s = .next t →
     (i ≠ .reti → i ≠ .di → t.cpu.ime = s.cpu.ime) ∧
     (i = .reti → t.cpu.ime = true) ∧
     (i ≠ .ei → i ≠ .di → t.cpu.eiPending = s.cpu.eiPending) ∧
     (i ≠ .halt → t.cpu.halted = s.cpu.halted)) ∧
  (∀ s : State,
     exec .nop s = .next s ∧
     exec .halt s = .next (s.withCpu { s.cpu with halted := true }) ∧
     exec .di s = .next (s.withCpu { s.cpu with ime := false, eiPending := false }) ∧
     exec .ei s = .next (s.withCpu { s.cpu with eiPending := true }))

/-- Which instructions write which flag, and which write SP; every other leaves it (10_state.md R33, R35). -/
def Obligations.FlagAndSpWriters : Prop :=
  ∀ (i : Instr) (s t : State), exec i s = .next t →
    (writesZ i = false → t.cpu.f.z = s.cpu.f.z) ∧
    (writesN i = false → t.cpu.f.n = s.cpu.f.n) ∧
    (writesH i = false → t.cpu.f.h = s.cpu.f.h) ∧
    (writesC i = false → t.cpu.f.c = s.cpu.f.c) ∧
    (writesSp i = false → t.cpu.sp = s.cpu.sp)

/-- "At any fetch boundary, both the upper 3 bits of IF are 1 and the lower nibble of F is 0" (60_exceptions.md R609). -/
def Obligations.ReservedBits : Prop :=
  ∀ s : State, (busRead s 0xFF0F).toNat / 32 = 7 ∧ s.cpu.f.toByte.toNat % 16 = 0

/-- A step moves T forward by a multiple of 4, at least one slot; it only adds to the output trace; and it never changes the
mode, the ROM, or what the header fixed: mapper, battery, RTC, bank count, RAM size (10_state.md R41, R111; 70_reset_and_hazards.md R1004; 65_cartridge.md R880). -/
def Obligations.StepProgress : Prop :=
  ∀ s t : State, step s = .next t →
    (∃ k, t.t = s.t + 4 * (k + 1)) ∧ s.io.trace <:+ t.io.trace ∧
    t.gbcMode = s.gbcMode ∧ t.mem.rom = s.mem.rom ∧ t.cart.mapper = s.cart.mapper ∧
    t.cart.battery = s.cart.battery ∧ t.cart.hasRtc = s.cart.hasRtc ∧
    t.cart.romBanks = s.cart.romBanks ∧ t.cart.ramSize = s.cart.ramSize

/-- `run_for(N)` returns at least N unless the machine faults, and the machine is then N or more cycles on
(66_input_host.md R965). -/
def Obligations.RunForReachesTarget : Prop :=
  ∀ (n : Nat) (s : State),
    (runFor n s).2.t = s.t + (runFor n s).1 ∧ ((runFor n s).2.fault = none → n ≤ (runFor n s).1) ∧
    Reaches s (runFor n s).2

/-- The reset state meets the invariant, and so does every machine that `load` gives from memories that meet it. -/
def Obligations.ResetInvariant : Prop :=
  State.reset.Inv ∧
  ∀ (image : List Byte) (save : Option (List Byte)) (init : Memories) (wall : Nat) (boot : Bool → Cpu) (c : Cart) (s : State),
    parseCart image = .ok c → ({ init with rom := [] } : Memories).Inv c →
    load (some image) save init wall boot = .ok s → s.Inv

/-- Every step keeps the invariant: every memory canonical and inside its size, LY and line_position in range, the copy
engines' counters in range, bank registers inside their widths, T a multiple of 4. -/
def Obligations.StepKeepsInvariant : Prop :=
  ∀ s t : State, s.Inv → step s = .next t → t.Inv

/-! ## Interrupts and HALT -/

/-- Taking an interrupt: with IME set, the lowest-numbered pending source is entered: IME cleared, three internal slots, PC
pushed, the IF bit cleared, PC at 0x40 + 8k, one more slot; HALTED ends, F and the EI latch stay (60_exceptions.md R604,
R603). -/
def Obligations.InterruptEntry : Prop :=
  ∀ (s : State) (k : Fin 5), s.cpu.ime = true → (pending s).getLsbD k = true →
    (∀ j : Fin 5, j < k → (pending s).getLsbD j = false) →
    let p := pushed (cycle (cycle (cycle s))) s.cpu.sp s.cpu.pc
    serviceInterrupts s =
      (cycle { p with int := { p.int with request := p.int.request &&& ~~~(1#5 <<< k.val) } }).withCpu
        { s.cpu with
          ime := false
          halted := false
          sp := s.cpu.sp - 2
          pc := BitVec.ofNat 16 (0x40 + 8 * k.val) }

/-- HALT: it ends whenever an interrupt is pending, whatever IME is; with nothing pending a halted step is one slot and
nothing else; with something pending and IME 0 the step leaves HALT and runs the next instruction with no entry (R601, R603;
47_system.md R502). The EI delay: at the boundary of the step after EI the interrupt check sees the old IME, so with IME 0
no interrupt is taken and IME is 1 from then on; at the boundary after that one a pending interrupt is taken (47_system.md
R505, 10_state.md R37). -/
def Obligations.HaltAndEiDelay : Prop :=
  (∀ s : State, pending s ≠ 0 → (serviceInterrupts s).cpu.halted = false) ∧
  (∀ s : State, s.fault = none → s.cpu.halted = true → s.cpu.eiPending = false →
     (pending s = 0 → step s = .next (cycle s)) ∧
     (pending s ≠ 0 → s.cpu.ime = false →
       step s = step (s.withCpu { s.cpu with halted := false }) ∧
       boundary s = s.withCpu { s.cpu with halted := false })) ∧
  (∀ s : State, s.cpu.ime = false → s.cpu.eiPending = true →
     boundary s =
       s.withCpu
         { s.cpu with ime := true, eiPending := false, halted := if pending s = 0 then s.cpu.halted else false } ∧
     (pending s ≠ 0 → ∃ k : Fin 5, (boundary (boundary s)).cpu.pc = BitVec.ofNat 16 (0x40 + 8 * k.val) ∧
       (boundary (boundary s)).cpu.ime = false))

/-! ## Timer -/

/-- One timer cycle from any state: the divider counts; at a multiple of the period of a started timer TIMA counts, or
reloads from TMA and requests TIMER where it was 0xFF (61_timer.md R651, R652). With the timer started and the divider on a
multiple of the period, `n` periods are `n` ticks: TIMA counts modulo 256 from a TMA of 0, TIMER is requested where it
overflowed, and nothing but the timer and IF bit 2 changes (R658). -/
def Obligations.TimerTicks : Prop :=
  (∀ s : State,
     let d := (s.timer.divider.toNat + 1) % 65536
     let ticks := s.timer.tac.toNat / 4 = 1 ∧
       d % (match s.timer.tac.toNat % 4 with | 0 => 1024 | 1 => 16 | 2 => 64 | _ => 256) = 0
     let t := timerCycle s
     t.timer.divider.toNat = d ∧
     (¬ticks → t.timer.tima = s.timer.tima ∧ t.int = s.int) ∧
     (ticks → s.timer.tima ≠ 0xFF → t.timer.tima = s.timer.tima + 1 ∧ t.int = s.int) ∧
     (ticks → s.timer.tima = 0xFF → t.timer.tima = s.timer.tma ∧
       t.int = { s.int with request := s.int.request ||| 4 }) ∧
     t = { s with timer := { s.timer with divider := t.timer.divider, tima := t.timer.tima }, int := t.int }) ∧
  (∀ (s : State) (n : Nat), s.timer.started = true → s.timer.tma = 0 →
     s.timer.divider.toNat % s.timer.period = 0 →
     let t := repeatN timerCycle (s.timer.period * n) s
     t.timer.tima.toNat = (s.timer.tima.toNat + n) % 256 ∧
     t.timer.divider.toNat = (s.timer.divider.toNat + s.timer.period * n) % 65536 ∧
     t.int.request.getLsbD 2 = (s.int.request.getLsbD 2 || decide (256 ≤ s.timer.tima.toNat + n)) ∧
     t = { s with timer := t.timer, int := t.int } ∧ t.timer.tac = s.timer.tac ∧ t.timer.tma = 0 ∧
     ∀ k, k ≠ 2 → t.int.request.getLsbD k = s.int.request.getLsbD k)

/-- Writes and reads of the timer's registers and of IF and IE (61_timer.md R653, R654, R655, R656; 10_state.md R42, R43). -/
def Obligations.TimerAndInterruptRegisters : Prop :=
  ∀ (s : State) (v : Byte),
    busWrite s 0xFF04 v = { s with timer := { s.timer with divider := 0 } } ∧
    busWrite s 0xFF05 v = { s with timer := { s.timer with tima := v } } ∧
    busWrite s 0xFF06 v = { s with timer := { s.timer with tma := v } } ∧
    (∃ w : BitVec 3, w.toNat = v.toNat % 8 ∧ busWrite s 0xFF07 v = { s with timer := { s.timer with tac := w } }) ∧
    (∃ w : BitVec 5, w.toNat = v.toNat % 32 ∧ busWrite s 0xFF0F v = { s with int := { s.int with request := w } }) ∧
    busWrite s 0xFFFF v = { s with int := { s.int with enable := v } } ∧
    (busRead s 0xFF04).toNat = s.timer.divider.toNat / 256 ∧ busRead s 0xFF05 = s.timer.tima ∧
    busRead s 0xFF06 = s.timer.tma ∧ (busRead s 0xFF07).toNat = 0xF8 + s.timer.tac.toNat ∧
    (busRead s 0xFF0F).toNat = 0xE0 + s.int.request.toNat ∧ busRead s 0xFFFF = s.int.enable

/-! ## Copy engines -/

/-- OAM DMA: a write of a legal page copies the page's first 160 bytes in 640 engine cycles and stops, and nothing else
changes; an illegal page stops the engine; both are read back (62_dma_hdma.md R680, R681, R683, R684). -/
def Obligations.OamDmaCopies : Prop :=
  ∀ (s : State) (v : Byte),
    let legal := v.toNat < 0x80 ∨ (0xC0 ≤ v.toNat ∧ v.toNat ≤ 0xDF) ∨
      (s.gbcMode = true ∧ 0xA0 ≤ v.toNat ∧ v.toNat ≤ 0xBF)
    let t := repeatN dmaCycle 640 (busWrite s 0xFF46 v)
    (legal →
      (∀ i, i < 160 → t.mem.oam.read i = busRead s (BitVec.ofNat 16 (256 * v.toNat + i))) ∧
      t.dma.running = false ∧ t.dma.position = 160 ∧
      t = { s with mem := { s.mem with oam := t.mem.oam }, dma := t.dma }) ∧
    (¬legal → busWrite s 0xFF46 v = { s with dma := { s.dma with running := false, last := v } } ∧
      t = busWrite s 0xFF46 v) ∧
    busRead (busWrite s 0xFF46 v) 0xFF46 = v

/-- The bulk HDMA that a store to HDMA5 starts on an inactive engine, from a source outside VRAM: it copies 16 × (L + 1)
bytes into the current bank from `hdma_dst` on, moves both addresses past them, ends inactive with HDMA5 reading 0xFF, and
advances T by 2 cycles a byte (R691, R692). -/
def Obligations.HdmaBulkCopies : Prop :=
  ∀ (s : State) (v : Byte), s.gbcMode = true → v.toNat < 128 →
    s.hdma.active = false →
    let n := 16 * (v.toNat + 1)
    (∀ i j, i < n → locate s (s.hdma.src + BitVec.ofNat 16 i) ≠ .vram j) →
    let t := busWrite s 0xFF55 v
    t.t = s.t + 2 * n ∧ t.hdma.active = false ∧ busRead t 0xFF55 = 0xFF ∧
    t.hdma.src = s.hdma.src + BitVec.ofNat 16 n ∧ t.hdma.dst = s.hdma.dst + BitVec.ofNat 13 n ∧
    ∀ i, i < n →
      t.mem.vram.read (vbank s * 0x2000 + (s.hdma.dst.toNat + i) % 0x2000) =
        busRead s (s.hdma.src + BitVec.ofNat 16 i)

/-- The HBlank HDMA: HDMA5 with bit 7 arms `L + 1` blocks and copies nothing; each block copies 16 bytes and leaves one block
fewer; the last one ends the transfer with HDMA5 reading 0xFF; a write with bit 7 = 0 cancels it (R691, R693, R694). An HBlank
entry draws the line, requests what PpuInterrupts says, and then runs one block exactly where an HBlank transfer is active; the
entry is the PPU cycle that brings line_position to 252 on a visible line, and no other PPU cycle changes the engine or a memory
(63_ppu.md R730, R734). -/
def Obligations.HdmaHblankBlocks : Prop :=
  (∀ s : State,
    let t := hblankEntry s
    let u := { s with int := t.int, io := t.io }
    t.io = { s.io with trace := lineOutput s s.ppu.ly :: s.io.trace } ∧
    t = if s.hdma.active = true ∧ s.hdma.hblank = true then hdmaBlock u else u) ∧
  (∀ s : State,
    if 128 ≤ s.ppu.lcdc.toNat ∧ s.ppu.ly < 144 ∧ s.ppu.linePosition = 251 then
      ppuCycle s = hblankEntry { s with ppu := { s.ppu with linePosition := 252 } }
    else (ppuCycle s).hdma = s.hdma ∧ (ppuCycle s).mem = s.mem) ∧
  ∀ s : State, s.gbcMode = true →
    (∀ v : Byte, 128 ≤ v.toNat →
      busWrite s 0xFF55 v =
        { s with hdma := { s.hdma with active := true, hblank := true, remaining := v.toNat - 128 + 1 } } ∧
      (busRead (busWrite s 0xFF55 v) 0xFF55).toNat = v.toNat - 128) ∧
    (∀ v : Byte, v.toNat < 128 → s.hdma.active = true → s.hdma.hblank = true → s.hdma.Inv →
      (busWrite s 0xFF55 v).hdma.active = false ∧
      (busRead (busWrite s 0xFF55 v) 0xFF55).toNat = 0x80 + (s.hdma.remaining - 1) ∧
      busWrite s 0xFF55 v = { s with hdma := (busWrite s 0xFF55 v).hdma } ∧ (busWrite s 0xFF55 v).t = s.t) ∧
    (s.hdma.active = true → s.hdma.Inv →
      (∀ i j, i < 16 → locate s (s.hdma.src + BitVec.ofNat 16 i) ≠ .vram j) →
      let t := hdmaBlock s
      (∀ i, i < 16 →
        t.mem.vram.read (vbank s * 0x2000 + (s.hdma.dst.toNat + i) % 0x2000) =
          busRead s (s.hdma.src + BitVec.ofNat 16 i)) ∧
      t.hdma.src = s.hdma.src + 16 ∧ t.hdma.dst = s.hdma.dst + 16 ∧ t.t = s.t ∧
      (s.hdma.remaining = 1 → t.hdma.active = false ∧ busRead t 0xFF55 = 0xFF) ∧
      (s.hdma.remaining ≠ 1 → t.hdma.active = true ∧ (busRead t 0xFF55).toNat = s.hdma.remaining - 2))

/-! ## PPU -/

/-- With the LCD on, `k` PPU cycles move the position in the frame by `k` of its 154 × 456; with it off nothing in the PPU
moves (63_ppu.md R720, R730, R740). -/
def Obligations.PpuPosition : Prop :=
  ∀ (s : State) (k : Nat), s.ppu.Inv →
    let t := repeatN ppuCycle k s
    (s.ppu.lcdEnable = true →
      t.ppu.ly * 456 + t.ppu.linePosition = (s.ppu.ly * 456 + s.ppu.linePosition + k) % 70224 ∧ t.ppu.Inv) ∧
    (s.ppu.lcdEnable = false → t = s)

/-- A whole frame from its first cycle: the sink gets the lines 0 to 143 in order and then one flip, VBLANK is requested,
and the counters are back where they were (R734, R735; 66_input_host.md R955). -/
def Obligations.FrameDrawsEachLineOnce : Prop :=
  ∀ s : State, s.ppu.lcdEnable = true → s.ppu.ly = 0 → s.ppu.linePosition = 0 →
    let t := repeatN ppuCycle 70224 s
    t.ppu = s.ppu ∧ t.int.request.getLsbD 0 = true ∧
    ∃ new, t.io.trace = new ++ s.io.trace ∧ new.length = 145 ∧ new.head? = some .flip ∧
      new.reverse.map Output.line = (List.range 144).map some ++ [none]

/-- The events of a line end and of an HBlank entry: VBLANK when LY becomes 144; LCD_STAT there with mode 1, at LY = LYC
with lyc, at a new visible line with mode 2, and at an HBlank entry with mode 0; no other request; a flip when LY becomes
144 and no other sink call (R734 to R737). -/
def Obligations.PpuInterrupts : Prop :=
  ∀ s : State, s.ppu.ly < 154 →
    let ly := if s.ppu.ly = 153 then 0 else s.ppu.ly + 1
    let t := lineEnd s
    t.ppu.ly = ly ∧ t.ppu.linePosition = 0 ∧
    t.int.request.getLsbD 0 = (s.int.request.getLsbD 0 || decide (ly = 144)) ∧
    t.int.request.getLsbD 1 =
      (s.int.request.getLsbD 1 || (decide (ly = 144) && s.ppu.statMode1)
        || (decide (ly = s.ppu.lyc.toNat) && s.ppu.statLyc) || (decide (ly < 144) && s.ppu.statMode2)) ∧
    t.io.trace = (if ly = 144 then [.flip] else []) ++ s.io.trace ∧
    (hblankEntry s).int.request.getLsbD 1 = (s.int.request.getLsbD 1 || s.ppu.statMode0) ∧
    (∀ k, 2 ≤ k → t.int.request.getLsbD k = s.int.request.getLsbD k) ∧
    ∀ k, k ≠ 1 → (hblankEntry s).int.request.getLsbD k = s.int.request.getLsbD k

/-- STAT: bit 7 reads 1, bits 6..3 the enables, bit 2 LY = LYC, bits 1..0 the mode; a write stores bits 6..3 and requests
nothing (R738, R721). -/
def Obligations.StatRegister : Prop :=
  ∀ (s : State) (v : Byte),
    (busRead s 0xFF41).toNat =
      128 + 64 * s.ppu.statLyc.toNat + 32 * s.ppu.statMode2.toNat + 16 * s.ppu.statMode1.toNat
        + 8 * s.ppu.statMode0.toNat + 4 * (decide (s.ppu.ly = s.ppu.lyc.toNat)).toNat
        + (if s.ppu.lcdc.toNat < 128 then 0
           else if 144 ≤ s.ppu.ly then 1
           else if s.ppu.linePosition < 80 then 2
           else if s.ppu.linePosition < 252 then 3 else 0) ∧
    ∃ p : Ppu, busWrite s 0xFF41 v = { s with ppu := p } ∧
      p =
        { s.ppu with
          statLyc := p.statLyc
          statMode2 := p.statMode2
          statMode1 := p.statMode1
          statMode0 := p.statMode0 } ∧
      8 * p.statMode0.toNat + 16 * p.statMode1.toNat + 32 * p.statMode2.toNat + 64 * p.statLyc.toNat =
        v.toNat % 128 / 8 * 8

/-- Switching the LCD off sends 144 white lines in order and zeroes LY and line_position; it requests no interrupt and flips
nothing; any other LCDC write stores the byte alone; white is 160 shades 0 on DMG and 160 colors 0x7FFF on GBC (R740, R751). -/
def Obligations.LcdOff : Prop :=
  ∀ (s : State) (v : Byte),
    let t := busWrite s 0xFF40 v
    (128 ≤ s.ppu.lcdc.toNat → v.toNat < 128 →
      t.ppu = { s.ppu with lcdc := v, ly := 0, linePosition := 0 } ∧ t.int = s.int ∧
      t.io.trace = ((List.range 144).map (whiteLine s.gbcMode)).reverse ++ s.io.trace) ∧
    (s.ppu.lcdc.toNat < 128 ∨ 128 ≤ v.toNat → t = { s with ppu := { s.ppu with lcdc := v } }) ∧
    (∀ ly, whiteLine false ly = .drawLineDmg ly (List.replicate 160 0) ∧
      whiteLine true ly = .drawLineGbc ly (List.replicate 160 0x7FFF))

/-- A line has 160 pixels, shades on DMG and colors on GBC; the sprites collected for it are the first ten in OAM order that
cover it, so all that cover it where they are fewer than ten; the priority order is those sprites, sorted by x on DMG and as collected on GBC
(R741, R742, R755). -/
def Obligations.LineSprites : Prop :=
  ∀ (s : State) (ly : Nat),
    (s.gbcMode = false → ∃ line, lineOutput s ly = .drawLineDmg ly line ∧ line.length = 160) ∧
    (s.gbcMode = true → ∃ line, lineOutput s ly = .drawLineGbc ly line ∧ line.length = 160) ∧
    (∀ (oam : Memory) (i : Nat), (oamSprite oam i).y = ((oam.read (4 * i)).toNat : Int) - 16 ∧
      (oamSprite oam i).x = ((oam.read (4 * i + 1)).toNat : Int) - 8 ∧
      (oamSprite oam i).tile = oam.read (4 * i + 2) ∧ (oamSprite oam i).flags = oam.read (4 * i + 3)) ∧
    lineSprites s ly =
      (((List.range 40).map (oamSprite s.mem.oam)).filter fun (sp : Sprite) =>
        decide (sp.y ≤ (ly : Int) ∧ (ly : Int) < sp.y + s.ppu.objHeight)).take 10 ∧
    (lineSprites s ly).length ≤ 10 ∧
    (lineSprites s ly).Sublist ((List.range 40).map (oamSprite s.mem.oam)) ∧
    (∀ sp ∈ lineSprites s ly, sp.y ≤ ly ∧ (ly : Int) < sp.y + s.ppu.objHeight) ∧
    ((lineSprites s ly).length < 10 →
      ∀ i, i < 40 → (oamSprite s.mem.oam i).y ≤ ly → (ly : Int) < (oamSprite s.mem.oam i).y + s.ppu.objHeight →
        oamSprite s.mem.oam i ∈ lineSprites s ly) ∧
    (∀ p : Ppu, p.objHeight = if p.lcdc.getLsbD 2 then 16 else 8) ∧
    (prioritySprites s ly).Perm (lineSprites s ly) ∧
    (s.gbcMode = false → (prioritySprites s ly).Pairwise (fun p q => p.x ≤ q.x) ∧
      ∀ x, (prioritySprites s ly).filter (fun sp => sp.x = x) = (lineSprites s ly).filter (fun sp => sp.x = x)) ∧
    (s.gbcMode = true → prioritySprites s ly = lineSprites s ly)

/-! ## SPU -/

/-- The SPU emits one frame in every 64 cycles, and a side of a frame is at most 480 × AMP_UNIT, which fits 16 bits (64_spu.md
R801, R821). That AMP_UNIT is at most 136 is the model's free constant's bound (log 8). -/
def Obligations.SpuFrames : Prop :=
  ∀ s : State, s.spu.samplePhase < 64 →
    let t := repeatN spuCycle 64 s
    ∃ l r, t.io.trace = .audioFrame l r :: s.io.trace ∧ t.spu.samplePhase = s.spu.samplePhase ∧
      l ≤ 480 * Config.ampUnit ∧ r ≤ 480 * Config.ampUnit ∧ l < 65536 ∧ r < 65536 ∧
      t = { s with spu := t.spu, io := { s.io with trace := t.io.trace } }

/-- The master switch: NR52 with bit 7 = 0 turns every channel off and clears NR10..NR51, the write-only fields with the
readable ones: the channels are the zero channels of reset (10_state.md R105 to R107); while it is off writes to
0xFF10..0xFF25 are ignored and the channels do not run; wave RAM stays accessible (R810, R815). -/
def Obligations.SpuMasterSwitch : Prop :=
  ∀ (s : State) (v : Byte),
    (s.spu.master = true → v.toNat < 128 →
      let t := busWrite s 0xFF26 v
      busRead t 0xFF26 = 0x70 ∧ busRead t 0xFF24 = 0 ∧ busRead t 0xFF25 = 0 ∧ busRead t 0xFF12 = 0 ∧
      busRead t 0xFF17 = 0 ∧ busRead t 0xFF21 = 0 ∧ busRead t 0xFF22 = 0 ∧ busRead t 0xFF10 = 0x80 ∧
      busRead t 0xFF11 = 0x3F ∧ busRead t 0xFF16 = 0x3F ∧ busRead t 0xFF1A = 0x7F ∧ busRead t 0xFF1C = 0x9F ∧
      busRead t 0xFF14 = 0xBF ∧ busRead t 0xFF19 = 0xBF ∧ busRead t 0xFF1E = 0xBF ∧ busRead t 0xFF23 = 0xBF ∧
      t = { s with spu := clearedSpu s.spu.samplePhase }) ∧
    (s.spu.master = false → ∀ a : Word, 0xFF10 ≤ a.toNat → a.toNat ≤ 0xFF25 → busWrite s a v = s) ∧
    (s.spu.master = false → (spuCycle s).spu = { s.spu with samplePhase := (spuCycle s).spu.samplePhase }) ∧
    (∀ a : Word, 0xFF30 ≤ a.toNat → a.toNat ≤ 0xFF3F → busRead (busWrite s a v) a = v ∧
      (busWrite s a v).spu = s.spu)

/-- A trigger of a channel through its NRx4: the period's upper bits and the length enable are stored, the channel is enabled
exactly when its DAC is on, and length, envelope and divider are loaded from the registers; the phase is kept on the pulse
channels, channel 1 restarts its sweep timer, channel 3 its sample position and channel 4 its noise register; no other field and
nothing else changes (64_spu.md R811, R813, R836). Then, with the length enabled, a pulse channel is on until its length timer
runs out and off from then on (R834). -/
def Obligations.PulseTriggerAndLength : Prop :=
  let env (e : Envelope) : Envelope :=
    { e with
      volume := BitVec.ofNat 4 (e.reg.toNat / 16)
      dir := e.reg.getLsbD 3
      steps := BitVec.ofNat 3 (e.reg.toNat % 8)
      timer := 65536 * (e.reg.toNat % 8) }
  let offset (o : BitVec 11) (v : Byte) : BitVec 11 := BitVec.ofNat 11 (o.toNat % 256 + 256 * (v.toNat % 8))
  let pulse (p : Pulse) (v : Byte) : Pulse :=
    { p with
      offset := offset p.offset v
      lenEnable := v.getLsbD 6
      enabled := decide (8 ≤ p.env.reg.toNat)
      lenTimer := (64 - p.lenLoad.toNat) * 16384
      env := env p.env
      freqTimer := 2 * (0x800 - (offset p.offset v).toNat) }
  (∀ (s : State) (v : Byte), s.spu.master = true → 128 ≤ v.toNat →
    busWrite s 0xFF14 v =
      { s with
        spu :=
          { s.spu with
            ch1 := pulse s.spu.ch1 v
            sweep := { s.spu.sweep with timer := s.spu.sweep.time.toNat * 32768 } } } ∧
    busWrite s 0xFF19 v = { s with spu := { s.spu with ch2 := pulse s.spu.ch2 v } } ∧
    busWrite s 0xFF1E v =
      { s with
        spu :=
          { s.spu with
            ch3 :=
              { s.spu.ch3 with
                offset := offset s.spu.ch3.offset v
                lenEnable := v.getLsbD 6
                enabled := s.spu.ch3.dac
                lenTimer := (256 - s.spu.ch3.lenLoad.toNat) * 16384
                freqTimer := 2 * (0x800 - (offset s.spu.ch3.offset v).toNat)
                index := 0 } } } ∧
    busWrite s 0xFF23 v =
      { s with
        spu :=
          { s.spu with
            ch4 :=
              { s.spu.ch4 with
                lenEnable := v.getLsbD 6
                enabled := decide (8 ≤ s.spu.ch4.env.reg.toNat)
                lenTimer := (64 - s.spu.ch4.lenLoad.toNat) * 16384
                env := env s.spu.ch4.env
                lfsr := 0x7FFF
                freqTimer :=
                  (if s.spu.ch4.poly.toNat % 8 = 0 then 4 else 8 * (s.spu.ch4.poly.toNat % 8))
                    * 2 ^ (s.spu.ch4.poly.toNat / 16 + 1) } } }) ∧
  (∀ (p : Pulse) (n : Nat), p.enabled = true → p.lenEnable = true → 1 ≤ p.lenTimer →
    (repeatN Pulse.cycle n p).enabled = decide (n < p.lenTimer))

/-! ## Cartridge -/

/-- The ROM windows: bank 0 low; in the switchable window the bank the mapper requests, reduced modulo ROM_BANKS, where a 0
reads as bank 1 for MBC1, MBC2 and MBC3; NONE requests bank 1 and ignores writes (65_cartridge.md R887, R890). -/
def Obligations.RomBankWindow : Prop :=
  (∀ c : Cart, 2 ≤ c.romBanks →
    let remap (n : Nat) : Nat := if n = 0 then 1 else n
    c.romBankAt4000 < c.romBanks ∧ (c.mapper ≠ .mbc5 → c.romBankAt4000 ≠ 0) ∧
    (c.mapper = .plain → c.romBankAt4000 = 1) ∧
    (c.mapper = .mbc1 → c.romBankAt4000 =
      remap ((if c.mode then c.romBank.toNat % 32 else c.romBank.toNat) % c.romBanks)) ∧
    (c.mapper = .mbc2 ∨ c.mapper = .mbc3 → c.romBankAt4000 = remap (c.romBank.toNat % c.romBanks)) ∧
    (c.mapper = .mbc5 → c.romBankAt4000 = c.romBank.toNat % c.romBanks)) ∧
  (∀ (s : State) (a : Word) (v : Byte),
    (a.toNat < 0x4000 → busRead s a = s.mem.rom.read a.toNat) ∧
    (0x4000 ≤ a.toNat → a.toNat < 0x8000 →
      busRead s a = s.mem.rom.read (s.cart.romBankAt4000 * 0x4000 + (a.toNat - 0x4000))) ∧
    (a.toNat < 0x8000 → s.cart.mapper = .plain → busWrite s a v = s))

/-- The mapper commands of NONE, MBC1, MBC2, MBC3 and MBC5: which register takes which bits, and that nothing else changes
(R890 to R894). An MBC3 write of bit 0 = 1 to 0x6000..0x7FFF with the latch flag clear is the latch and then the flag; every
other MBC3 command is a register write alone. -/
def Obligations.MapperCommands : Prop :=
  ∀ (s : State) (a : Word) (v : Byte), a.toNat < 0x8000 →
    let t := busWrite s a v
    let n := a.toNat
    let enable := decide (v.toNat % 16 = 10)
    (s.cart.mapper ≠ .mbc3 → t = { s with cart := t.cart } ∧
      t.cart =
        { s.cart with
          ramEnable := t.cart.ramEnable
          romBank := t.cart.romBank
          ramBank := t.cart.ramBank
          mode := t.cart.mode }) ∧
    (s.cart.mapper = .plain → t = s) ∧
    (s.cart.mapper = .mbc1 → s.cart.romBank.toNat < 128 →
      t.cart.ramEnable = (if n < 0x2000 then enable else s.cart.ramEnable) ∧
      t.cart.romBank.toNat =
        (if 0x2000 ≤ n ∧ n < 0x4000 then s.cart.romBank.toNat / 32 * 32 + v.toNat % 32
         else if 0x4000 ≤ n ∧ n < 0x6000 ∧ s.cart.mode = false then s.cart.romBank.toNat % 32 + 32 * (v.toNat % 4)
         else s.cart.romBank.toNat) ∧
      t.cart.ramBank.toNat =
        (if 0x4000 ≤ n ∧ n < 0x6000 ∧ s.cart.mode = true then v.toNat % 4 else s.cart.ramBank.toNat) ∧
      t.cart.mode = (if 0x6000 ≤ n then decide (v.toNat % 2 = 1) else s.cart.mode)) ∧
    (s.cart.mapper = .mbc2 →
      t.cart.ramEnable =
        (if n < 0x4000 ∧ ¬(0x2000 ≤ n ∧ n / 256 % 2 = 0) then enable else s.cart.ramEnable) ∧
      t.cart.romBank.toNat =
        (if 0x2000 ≤ n ∧ n < 0x4000 ∧ n / 256 % 2 = 0 then v.toNat % 16 else s.cart.romBank.toNat) ∧
      t.cart.ramBank = s.cart.ramBank ∧ t.cart.mode = s.cart.mode) ∧
    (s.cart.mapper = .mbc5 →
      t.cart.ramEnable = (if n < 0x2000 then enable else s.cart.ramEnable) ∧
      t.cart.romBank.toNat =
        (if 0x2000 ≤ n ∧ n < 0x3000 then s.cart.romBank.toNat / 256 * 256 + v.toNat
         else if 0x3000 ≤ n ∧ n < 0x4000 then s.cart.romBank.toNat % 256 + 256 * (v.toNat % 2)
         else s.cart.romBank.toNat) ∧
      t.cart.ramBank.toNat = (if 0x4000 ≤ n ∧ n < 0x6000 then v.toNat % 16 else s.cart.ramBank.toNat) ∧
      t.cart.mode = s.cart.mode) ∧
    (s.cart.mapper = .mbc3 →
      let latches := 0x6000 ≤ n ∧ s.cart.rtc.latchFlag = false ∧ v.toNat % 2 = 1
      let u := if latches then rtcLatch s else s
      t = { u with cart := t.cart } ∧
      t.cart =
        { u.cart with
          ramEnable := t.cart.ramEnable
          romBank := t.cart.romBank
          ramSel := t.cart.ramSel
          rtc := { u.cart.rtc with latchFlag := t.cart.rtc.latchFlag } } ∧
      t.cart.ramEnable = (if n < 0x2000 then enable else s.cart.ramEnable) ∧
      t.cart.romBank.toNat = (if 0x2000 ≤ n ∧ n < 0x4000 then v.toNat % 128 else s.cart.romBank.toNat) ∧
      t.cart.ramSel.toNat = (if 0x4000 ≤ n ∧ n < 0x6000 then v.toNat % 16 else s.cart.ramSel.toNat) ∧
      t.cart.rtc.latchFlag = (if 0x6000 ≤ n then decide (v.toNat % 2 = 1) else s.cart.rtc.latchFlag))

/-- The MBC3 clock: a write to an enabled RTC register reads back masked, leaves the other registers of the snapshot, and leaves a
clock whose logical time is the time the snapshot shows; a DAYH write halts the clock or lets it run by its bit 6, with halt_ts
the reading taken where it halts a running clock, and no other write changes either; a latch shows the logical time, of a running clock that of the wall-clock reading it takes, in seconds,
minutes, hours and days, with the day carry kept once set, and changes nothing but the snapshot and the reading; so a halted
clock shows at a latch what it showed before, where the fields are in range (R893, R896). That `div` and `mod` of a negative
logical time round down is the model's reading (log 9, DEDUCED); that a reading is the next of a pending list, and the latest
reading where that one is smaller, is the model's choice of the host's input (log 7, DESIGN CHOICE). -/
def Obligations.RtcWriteAndLatch : Prop :=
  (∀ (s : State) (a : Word) (v : Byte), 0xA000 ≤ a.toNat → a.toNat < 0xC000 → s.cart.mapper = .mbc3 →
    s.cart.hasRtc = true → s.cart.ramEnable = true → 8 ≤ s.cart.ramSel.toNat → s.cart.ramSel.toNat ≤ 12 →
    let mask : Byte := match s.cart.ramSel.toNat with | 8 => 0x3F | 9 => 0x3F | 10 => 0x1F | 11 => 0xFF | _ => 0xC1
    let t := busWrite s a v
    busRead t a = v &&& mask ∧
    (if t.cart.rtc.halted then (t.cart.rtc.haltTs : Int) else (t.io.wallLast : Int)) - t.cart.rtc.base =
      t.cart.rtc.s.toNat + 60 * t.cart.rtc.m.toNat + 3600 * t.cart.rtc.h.toNat
        + 86400 * (t.cart.rtc.dayl.toNat + 256 * (t.cart.rtc.dayh.toNat % 2)) ∧
    t.cart.rtc.halted = (if s.cart.ramSel.toNat = 12 then v.getLsbD 6 else s.cart.rtc.halted) ∧
    t.cart.rtc.haltTs =
      (if s.cart.rtc.halted = false ∧ t.cart.rtc.halted = true then t.io.wallLast else s.cart.rtc.haltTs) ∧
    t.cart.rtc.latchFlag = s.cart.rtc.latchFlag ∧
    (s.cart.ramSel.toNat ≠ 8 → t.cart.rtc.s = s.cart.rtc.s) ∧ (s.cart.ramSel.toNat ≠ 9 → t.cart.rtc.m = s.cart.rtc.m) ∧
    (s.cart.ramSel.toNat ≠ 10 → t.cart.rtc.h = s.cart.rtc.h) ∧
    (s.cart.ramSel.toNat ≠ 11 → t.cart.rtc.dayl = s.cart.rtc.dayl) ∧
    (s.cart.ramSel.toNat ≠ 12 → t.cart.rtc.dayh = s.cart.rtc.dayh) ∧
    (s.cart.rtc.halted = true → t.cart.rtc.halted = true → t.io = s.io) ∧
    (∀ w ws, s.cart.rtc.halted = false ∨ t.cart.rtc.halted = false → s.io.wallQueue = w :: ws →
      t.io.wallLast = max w s.io.wallLast ∧ t.io.wallQueue = ws) ∧
    s.io.wallLast ≤ t.io.wallLast ∧
    t = { s with
      cart := { s.cart with rtc := t.cart.rtc, dirty := t.cart.dirty, flushAt := t.cart.flushAt }
      io := { s.io with wallQueue := t.io.wallQueue, wallLast := t.io.wallLast, wallReads := t.io.wallReads } } ∧
    t.cart.dirty = true ∧ t.cart.flushAt = s.t + 3 * cpuHz) ∧
  (∀ s : State, s.cart.hasRtc = true →
    let t := rtcLatch s
    let r := t.cart.rtc
    let time : Int := (if s.cart.rtc.halted then (s.cart.rtc.haltTs : Int) else (t.io.wallLast : Int)) - s.cart.rtc.base
    (r.s.toNat : Int) = time % 60 ∧ (r.m.toNat : Int) = time / 60 % 60 ∧ (r.h.toNat : Int) = time / 3600 % 24 ∧
    (r.dayl.toNat : Int) = time / 86400 % 256 ∧
    (r.dayh.toNat : Int) =
      (if s.cart.rtc.dayh.getLsbD 7 = true ∨ 512 ≤ time / 86400 then 128 else 0)
        + (if s.cart.rtc.halted then 64 else 0) + time / 86400 / 256 % 2 ∧
    r = { s.cart.rtc with s := r.s, m := r.m, h := r.h, dayl := r.dayl, dayh := r.dayh } ∧
    t = { s with
      cart := { s.cart with rtc := r }
      io := { s.io with wallQueue := t.io.wallQueue, wallLast := t.io.wallLast, wallReads := t.io.wallReads } } ∧
    s.io.wallLast ≤ t.io.wallLast ∧
    (s.cart.rtc.halted = true → t.io = s.io) ∧
    (∀ w ws, s.cart.rtc.halted = false → s.io.wallQueue = w :: ws →
      t.io.wallLast = max w s.io.wallLast ∧ t.io.wallQueue = ws)) ∧
  (∀ s : State, s.cart.hasRtc = true → s.cart.rtc.halted = true →
    s.cart.rtc.s.toNat < 60 → s.cart.rtc.m.toNat < 60 → s.cart.rtc.h.toNat < 24 →
    s.cart.rtc.dayh &&& 0x7E = 0x40 →
    s.cart.rtc.base = (s.cart.rtc.haltTs : Int) - s.cart.rtc.shownTime → rtcLatch s = s)

/-- The save flush: a slot in which a dirty cartridge's deadline falls records exactly one flush and clears the dirty bit;
before the deadline no slot does; and a clean cartridge never flushes (R897). And the save file of a machine loads back, on a
cartridge of the same header: the RAM, and with an RTC the base and halt_ts modulo 2^64, the latch flag, the snapshot's five
bytes, and the halt from bit 6 of its DAYH, all else being the reset state of the image (66_input_host.md R960, R961). And a file
cut to 18 bytes of its RTC part loads the same but for M, H, DAYL, DAYH and the halt, which it does not hold. That a file of the
layout's 22 RTC bytes is written and loads, and that one of 18 loads too, is the model's choice between the spec's two lengths
(log 20), and so is a negative base modulo 2^64 (log 9). -/
def Obligations.SaveFlush : Prop :=
  (∀ s : State,
    (s.cart.dirty = true → s.cart.flushAt ≤ s.t + 4 →
      (cycle s).cart.dirty = false ∧
      ∃ new, (cycle s).io.trace =
        .saveFlush s.mem.cartRam s.mem.mbc2Ram s.cart.rtc :: new ++ s.io.trace ∧ ∀ o ∈ new, ∀ a b c, o ≠ .saveFlush a b c) ∧
    (s.cart.dirty = false ∨ s.t + 4 < s.cart.flushAt →
      (cycle s).cart.dirty = s.cart.dirty ∧
      ∃ new, (cycle s).io.trace = new ++ s.io.trace ∧ ∀ o ∈ new, ∀ a b c, o ≠ .saveFlush a b c)) ∧
  (∀ (s : State) (image : List Byte) (init : Memories) (wall : Nat) (boot : Bool → Cpu) (c : Cart),
    parseCart image = .ok c → c.battery = true →
    s.cart.mapper = c.mapper → s.cart.ramSize = c.ramSize → s.cart.hasRtc = c.hasRtc →
    let file := saveBytes s.cart s.mem.cartRam s.mem.mbc2Ram
    let mode := (image.getD 0x0143 0).getLsbD 7
    let ram := if c.mapper = .mbc2 then 512 else c.ramSize
    ∃ t, load (some image) (some file) init wall boot = .ok t ∧
      (c.mapper = .mbc2 → ∀ i, i < 512 →
        0xF0 ||| t.mem.mbc2Ram.read i = 0xF0 ||| s.mem.mbc2Ram.read i) ∧
      (c.mapper ≠ .mbc2 → ∀ i, i < c.ramSize → t.mem.cartRam.read i = s.mem.cartRam.read i) ∧
      (c.hasRtc = true →
        t.cart.rtc =
          { s.cart.rtc with
            base := s.cart.rtc.base % 2 ^ 64
            haltTs := s.cart.rtc.haltTs % 2 ^ 64
            halted := s.cart.rtc.dayh.getLsbD 6 } ∧
        ∃ t18, load (some image) (some (file.take (ram + 18))) init wall boot = .ok t18 ∧ t18.mem = t.mem ∧
          t18.cart.rtc =
            { t.cart.rtc with
              halted := t18.cart.rtc.dayh.getLsbD 6
              m := t18.cart.rtc.m
              h := t18.cart.rtc.h
              dayl := t18.cart.rtc.dayl
              dayh := t18.cart.rtc.dayh }) ∧
      t = State.resetWith mode t.mem { c with rtc := t.cart.rtc } t.io.wallLast (boot mode) ∧
      ∀ u, load (some image) none init wall boot = .ok u →
        t.mem = { u.mem with cartRam := t.mem.cartRam, mbc2Ram := t.mem.mbc2Ram } ∧
        (c.hasRtc = false → t.cart.rtc = u.cart.rtc))

/-- A good image loads, whatever BOOT_CPU is, into the reset state of the mode its header gives, with its bytes in the ROM, the
memories given and a fresh clock (ResetValues says what that state holds): by default PC at 0x0100, the mode of byte 0x0143,
and a read of 0x0000..0x7FFF giving the image's byte (10_state.md R40; 65_cartridge.md R880, R881, R887; 66_input_host.md R961);
what a load refuses and why, and which header codes give which mapper, battery, RTC, bank count and RAM size (R882 to R885): an
image of a length in range parses exactly where its three codes are in the tables and its banks are all there. `load` answers
the error that the image gives, a missing image's, and a save file's of a battery cartridge exactly where its length is not
RAM_SIZE (512 for MBC2), with an RTC plus 18 or 22; it does not look at a save of a cartridge without a battery
(66_input_host.md R960, R962, 92_eei_decisions.md D48). That both of the spec's lengths load is the model's choice (log 20). The
order among several checks is the model's (log 16). -/
def Obligations.LoadGivesReset : Prop :=
  (∀ (image : List Byte) (init : Memories) (wall : Nat) (boot : Bool → Cpu) (c : Cart), parseCart image = .ok c →
     ∃ s, load (some image) none init wall boot = .ok s ∧ s.fault = none ∧ s.t = 0 ∧
       (boot = Cpu.boot → s.cpu.pc = 0x0100 ∧ s.cpu.sp = 0xFFFE) ∧
       s.gbcMode = (image.getD 0x0143 0).getLsbD 7 ∧ s.cart.rtc.base = wall ∧
       (∀ a : Word, a.toNat < 0x8000 → busRead s a = image.getD a.toNat 0) ∧
       s.mem = { init with rom := s.mem.rom } ∧
       (let mode := (image.getD 0x0143 0).getLsbD 7
        s = State.resetWith mode s.mem { c with rtc := Rtc.fresh wall } wall (boot mode))) ∧
  (∀ image : List Byte,
     (parseCart image = .error .empty ↔ image = []) ∧
     (parseCart image = .error .tooLarge ↔ 512 * 0x4000 < image.length) ∧
     (parseCart image = .error .malformedHeader ↔ image ≠ [] ∧ image.length < 0x0150) ∧
     (∀ c, parseCart image = .ok c →
       2 ≤ c.romBanks ∧ c.romBanks ≤ 512 ∧ c.romBanks * 0x4000 ≤ image.length ∧
       c.ramSize ∈ [0, 2048, 8192, 32768, 131072] ∧ c.romBank = 1 ∧ c.ramBank = 0 ∧ c.mode = false ∧ c.ramSel = 0 ∧
       (c.ramEnable = true ↔ c.mapper = .plain) ∧ (c.hasRtc = true → c.mapper = .mbc3 ∧ c.battery = true))) ∧
  (∀ image : List Byte, 0x0150 ≤ image.length → image.length ≤ 512 * 0x4000 →
     let code := (image.getD 0x0147 0).toNat
     let romCode := (image.getD 0x0148 0).toNat
     let ramCode := (image.getD 0x0149 0).toNat
     ((∀ row ∈ mapperTable, row.1 ≠ code) → parseCart image = .error .unsupportedMapper) ∧
     ∀ m battery rtc, (code, m, battery, rtc) ∈ mapperTable →
       ((∀ row ∈ romTable, row.1 ≠ romCode) → parseCart image = .error .unsupportedRomSize) ∧
       ∀ banks, (romCode, banks) ∈ romTable →
         (m ≠ .mbc2 → (∀ row ∈ ramTable, row.1 ≠ ramCode) → parseCart image = .error .unsupportedRamSize) ∧
         ∀ size, (if m = .mbc2 then size = 0 else (ramCode, size) ∈ ramTable) →
           (image.length < banks * 0x4000 → parseCart image = .error .tooSmall) ∧
           (banks * 0x4000 ≤ image.length → ∃ c, parseCart image = .ok c ∧ c.mapper = m ∧ c.battery = battery ∧
             c.hasRtc = rtc ∧ c.romBanks = banks ∧ c.ramSize = size)) ∧
  (∀ (image : List Byte) (save : Option (List Byte)) (init : Memories) (wall : Nat) (boot : Bool → Cpu),
     load none save init wall boot = .error .fileMissing ∧
     (∀ e, parseCart image = .error e → load (some image) save init wall boot = .error e) ∧
     (∀ c, parseCart image = .ok c →
       (c.battery = false → load (some image) save init wall boot = load (some image) none init wall boot) ∧
       (∀ file, c.battery = true →
         (let ram := if c.mapper = .mbc2 then 512 else c.ramSize
          load (some image) (some file) init wall boot = .error .saveCorrupt ↔
            if c.hasRtc then file.length ≠ ram + 18 ∧ file.length ≠ ram + 22 else file.length ≠ ram) ∧
         ∀ e, load (some image) (some file) init wall boot = .error e → e = .saveCorrupt)))

/-! ## The bus, the joypad and the palette ports -/

/-- The echo: an access to 0xE000..0xFDFF is the access at the address less 0x2000 (20_memory.md R157). -/
def Obligations.EchoRam : Prop :=
  ∀ (s : State) (a : Word) (v : Byte), 0xE000 ≤ a.toNat → a.toNat ≤ 0xFDFF →
    busRead s a = busRead s (a - 0x2000) ∧ busWrite s a v = busWrite s (a - 0x2000) v

/-- Every address of the I/O page that the catalogue does not list, and every GBC-only register in DMG mode, reads 0xFF and
ignores writes; SB reads 0xFF, SC reads 0, and both and LY ignore writes (10_state.md R57, R81, R92). -/
def Obligations.UnknownAddresses : Prop :=
  ∀ (s : State) (a : Word) (v : Byte),
    (a.toNat = 0xFF03 ∨ (0xFF08 ≤ a.toNat ∧ a.toNat ≤ 0xFF0E) ∨ a.toNat = 0xFF15 ∨ a.toNat = 0xFF1F ∨
      (0xFF27 ≤ a.toNat ∧ a.toNat ≤ 0xFF2F) ∨ (0xFF4C ≤ a.toNat ∧ a.toNat ≤ 0xFF4E) ∨
      a.toNat = 0xFF50 ∨ (0xFF56 ≤ a.toNat ∧ a.toNat ≤ 0xFF67) ∨ (0xFF6C ≤ a.toNat ∧ a.toNat ≤ 0xFF6F) ∨
      (0xFF71 ≤ a.toNat ∧ a.toNat ≤ 0xFF7F) ∨
      (s.gbcMode = false ∧ (a.toNat = 0xFF4F ∨ (0xFF51 ≤ a.toNat ∧ a.toNat ≤ 0xFF55) ∨
        (0xFF68 ≤ a.toNat ∧ a.toNat ≤ 0xFF6B) ∨ a.toNat = 0xFF70)) →
      busRead s a = 0xFF ∧ busWrite s a v = s) ∧
    busRead s 0xFF01 = 0xFF ∧ busRead s 0xFF02 = 0x00 ∧ busWrite s 0xFF01 v = s ∧ busWrite s 0xFF02 v = s ∧
    busWrite s 0xFF44 v = s ∧ (s.ppu.ly < 256 → (busRead s 0xFF44).toNat = s.ppu.ly)

/-- P1: the selected rows, active low and ANDed; the write stores bits 5..4 alone; a press on a selected row, and nothing
else, requests INPUT; pending events are applied in order where they are due, by `refresh_input()` between two calls of
`run_for`, and no step and no `run_for` applies one (66_input_host.md R951, R952, R966; that a pending event carries a time is the
model's form of the host's input, log 6). -/
def Obligations.Joypad : Prop :=
  ∀ (s : State) (v : Byte),
    (busRead s 0xFF00).toNat =
      192 + 16 * s.io.sel.toNat
        + ((if s.io.sel.getLsbD 0 then 15
            else 15 - (s.io.pressed.right.toNat + 2 * s.io.pressed.left.toNat + 4 * s.io.pressed.up.toNat
              + 8 * s.io.pressed.down.toNat)) &&&
           (if s.io.sel.getLsbD 1 then 15
            else 15 - (s.io.pressed.a.toNat + 2 * s.io.pressed.b.toNat + 4 * s.io.pressed.select.toNat
              + 8 * s.io.pressed.start.toNat))) ∧
    (∃ w : BitVec 2, w.toNat = v.toNat / 16 % 4 ∧ busWrite s 0xFF00 v = { s with io := { s.io with sel := w } }) ∧
    (∀ (btn : Button) (p : Bool),
      let t := setButton btn p s
      t.io.pressed.get btn = p ∧ (∀ q, q ≠ btn → t.io.pressed.get q = s.io.pressed.get q) ∧
      t = { s with int := t.int, io := { s.io with pressed := t.io.pressed } } ∧
      t.int =
        if s.io.pressed.get btn = false ∧ p = true ∧
            (if btn = .right ∨ btn = .left ∨ btn = .up ∨ btn = .down then s.io.sel.getLsbD 0 = false
             else s.io.sel.getLsbD 1 = false)
        then { s.int with request := s.int.request ||| 16 } else s.int) ∧
    (∀ (e : InputEvent) (rest : List InputEvent), s.io.inputs = e :: rest →
      refreshInput s =
        if e.due ≤ s.t then refreshInput (setButton e.button e.pressed { s with io := { s.io with inputs := rest } }) else s) ∧
    (s.io.inputs = [] → refreshInput s = s) ∧
    (∀ t, step s = .next t → t.io.pressed = s.io.pressed ∧ t.io.inputs = s.io.inputs) ∧
    (∀ n, (runFor n s).2.io.pressed = s.io.pressed ∧ (runFor n s).2.io.inputs = s.io.inputs)

/-- Which byte of which memory an address reaches under the bank in force, in both modes: VRAM, external RAM as the mapper's bank
modulo RAM_SIZE, WRAM and its echo, OAM, zero page and IE (20_memory.md R153, R156, R157, 65_cartridge.md R888).
The bank and palette ports in GBC mode: VBK and SVBK choose the bank of the next access, a bank of 0 reads as
1 for SVBK; a palette index write stores the index and the increment flag, a data write stores the byte and moves the index
modulo 64 where the flag is set, and a data read moves nothing (20_memory.md R156, 63_ppu.md R753). -/
def Obligations.GbcBanksAndPalettes : Prop :=
  (∀ (s : State) (a : Word),
    let n := a.toNat
    let vramBank := if s.gbcMode then s.ppu.vbk.toNat else 0
    let wramBank := if s.gbcMode then max 1 s.svbk.toNat else 1
    let ramBank :=
      match s.cart.mapper with
      | .plain => 0
      | .mbc1 => if s.cart.mode then s.cart.ramBank.toNat else 0
      | .mbc2 => 0
      | .mbc3 => s.cart.ramSel.toNat
      | .mbc5 => s.cart.ramBank.toNat
    let ram := (ramBank * 0x2000 + (n - 0xA000)) % s.cart.ramSize
    (0x8000 ≤ n → n < 0xA000 → memCell s a = some (.vram (vramBank * 0x2000 + (n - 0x8000))) ∧
      busRead s a = s.mem.vram.read (vramBank * 0x2000 + (n - 0x8000))) ∧
    (0xA000 ≤ n → n < 0xC000 →
      (s.cart.mapper = .mbc2 → memCell s a = some (.mbc2Ram ((n - 0xA000) % 512)) ∧
        busRead s a = 0xF0 ||| s.mem.mbc2Ram.read ((n - 0xA000) % 512)) ∧
      (s.cart.mapper ≠ .mbc2 → s.cart.ramSize ≠ 0 → (s.cart.mapper = .mbc3 → s.cart.ramSel.toNat ≤ 3) →
        memCell s a = some (.cartRam ram) ∧ busRead s a = s.mem.cartRam.read ram) ∧
      (s.cart.mapper ≠ .mbc2 → s.cart.ramSize = 0 →
        (s.cart.mapper = .mbc3 → s.cart.hasRtc = true → s.cart.ramSel.toNat < 8 ∨ 12 < s.cart.ramSel.toNat) →
        memCell s a = none ∧ busRead s a = 0xFF) ∧
      (s.cart.mapper = .mbc3 → 3 < s.cart.ramSel.toNat → memCell s a = none ∧
        busRead s a =
          if s.cart.hasRtc then
            match s.cart.ramSel.toNat with
            | 8 => s.cart.rtc.s
            | 9 => s.cart.rtc.m
            | 10 => s.cart.rtc.h
            | 11 => s.cart.rtc.dayl
            | 12 => s.cart.rtc.dayh
            | _ => 0xFF
          else 0xFF)) ∧
    (0xC000 ≤ n → n < 0xD000 → memCell s a = some (.wram (n - 0xC000)) ∧ busRead s a = s.mem.wram.read (n - 0xC000)) ∧
    (0xD000 ≤ n → n < 0xE000 → memCell s a = some (.wram (wramBank * 0x1000 + (n - 0xD000))) ∧
      busRead s a = s.mem.wram.read (wramBank * 0x1000 + (n - 0xD000))) ∧
    (0xE000 ≤ n → n < 0xFE00 → memCell s a = memCell s (a - 0x2000) ∧ busRead s a = busRead s (a - 0x2000)) ∧
    (0xFE00 ≤ n → n < 0xFEA0 → memCell s a = some (.oam (n - 0xFE00)) ∧ busRead s a = s.mem.oam.read (n - 0xFE00)) ∧
    (0xFEA0 ≤ n → n < 0xFF00 → memCell s a = none ∧ busRead s a = 0xFF) ∧
    (0xFF80 ≤ n → n < 0xFFFF → memCell s a = some (.zp (n - 0xFF80)) ∧ busRead s a = s.mem.zp.read (n - 0xFF80)) ∧
    (n = 0xFFFF → memCell s a = some .ie ∧ busRead s a = s.int.enable) ∧
    (n < 0x8000 ∨ (0xFF00 ≤ n ∧ n < 0xFF80) → memCell s a = none)) ∧
  ∀ (s : State) (v : Byte), s.gbcMode = true →
    vbank (busWrite s 0xFF4F v) = v.toNat % 2 ∧ (busRead (busWrite s 0xFF4F v) 0xFF4F).toNat = 0xFE + v.toNat % 2 ∧
    wbank (busWrite s 0xFF70 v) = max 1 (v.toNat % 8) ∧ (busRead (busWrite s 0xFF70 v) 0xFF70).toNat = 0xF8 + v.toNat % 8 ∧
    (busRead (busWrite s 0xFF68 v) 0xFF68).toNat = v.toNat / 128 * 128 + 64 + v.toNat % 64 ∧
    (busRead (busWrite s 0xFF6A v) 0xFF6A).toNat = v.toNat / 128 * 128 + 64 + v.toNat % 64 ∧
    (let t := busWrite s 0xFF69 v
     (∀ i, t.mem.bgPal.read i = if i = s.ppu.bgIndex.toNat then v else s.mem.bgPal.read i) ∧
     t.ppu.bgIndex.toNat = (s.ppu.bgIndex.toNat + s.ppu.bgInc.toNat) % 64 ∧
     busRead t 0xFF69 = t.mem.bgPal.read t.ppu.bgIndex.toNat ∧
     t = { s with mem := { s.mem with bgPal := t.mem.bgPal }, ppu := { s.ppu with bgIndex := t.ppu.bgIndex } }) ∧
    (let t := busWrite s 0xFF6B v
     (∀ i, t.mem.objPal.read i = if i = s.ppu.objIndex.toNat then v else s.mem.objPal.read i) ∧
     t.ppu.objIndex.toNat = (s.ppu.objIndex.toNat + s.ppu.objInc.toNat) % 64 ∧
     busRead t 0xFF6B = t.mem.objPal.read t.ppu.objIndex.toNat ∧
     t = { s with mem := { s.mem with objPal := t.mem.objPal }, ppu := { s.ppu with objIndex := t.ppu.objIndex } })

/-! ## Reset -/

/-- The reset values of the CPU in both modes (10_state.md R40) and of every other state that 70_reset_and_hazards.md R1001
lists: as the registers read, and where a register cannot be read, as it is stored. These CPU values are the default of the
parameter BOOT_CPU, which sets A to L, F, SP and PC alone (R40). -/
def Obligations.ResetValues : Prop :=
  ∀ (mem : Memories) (cart : Cart) (wall : Nat),
    let d := State.resetWith false mem cart wall
    let g := State.resetWith true mem cart wall
    (∀ (m : Bool) (boot : Cpu),
      State.resetWith m mem cart wall boot =
        (State.resetWith m mem cart wall).withCpu { boot with ime := false, eiPending := false, halted := false }) ∧
    d.cpu.af = 0x01B0 ∧ d.cpu.bc = 0x0013 ∧ d.cpu.de = 0x00D8 ∧ d.cpu.hl = 0x014D ∧
    g.cpu.af = 0x1180 ∧ g.cpu.bc = 0x0000 ∧ g.cpu.de = 0xFF56 ∧ g.cpu.hl = 0x000D ∧
    ∀ m, let s := State.resetWith m mem cart wall
      s.cpu.sp = 0xFFFE ∧ s.cpu.pc = 0x0100 ∧ s.cpu.ime = false ∧ s.cpu.eiPending = false ∧ s.cpu.halted = false ∧
      s.fault = none ∧ s.t = 0 ∧ s.io.trace = [] ∧
      busRead s 0xFF00 = 0xCF ∧ busRead s 0xFF04 = 0 ∧ busRead s 0xFF05 = 0 ∧ busRead s 0xFF06 = 0 ∧
      busRead s 0xFF07 = 0xF8 ∧ busRead s 0xFF0F = 0xE1 ∧ busRead s 0xFFFF = 0 ∧
      busRead s 0xFF24 = 0x77 ∧ busRead s 0xFF25 = 0xF3 ∧ busRead s 0xFF26 = 0xF0 ∧
      busRead s 0xFF40 = 0x91 ∧ busRead s 0xFF41 = 0x86 ∧ busRead s 0xFF44 = 0 ∧ busRead s 0xFF46 = 0xFF ∧
      busRead s 0xFF47 = 0xFC ∧ busRead s 0xFF48 = 0xFF ∧ busRead s 0xFF49 = 0xFF ∧ busRead s 0xFF55 = 0xFF ∧
      busRead s 0xFF42 = 0 ∧ busRead s 0xFF43 = 0 ∧ busRead s 0xFF45 = 0 ∧ busRead s 0xFF4A = 0 ∧ busRead s 0xFF4B = 0 ∧
      busRead s 0xFF10 = 0x80 ∧ busRead s 0xFF11 = 0x3F ∧ busRead s 0xFF12 = 0 ∧ busRead s 0xFF14 = 0xBF ∧
      busRead s 0xFF16 = 0x3F ∧ busRead s 0xFF17 = 0 ∧ busRead s 0xFF19 = 0xBF ∧ busRead s 0xFF1A = 0x7F ∧
      busRead s 0xFF1C = 0x9F ∧ busRead s 0xFF1E = 0xBF ∧ busRead s 0xFF21 = 0 ∧ busRead s 0xFF22 = 0 ∧
      busRead s 0xFF23 = 0xBF ∧
      s.spu = { clearedSpu 0 with master := true, nr50 := 0x77, nr51 := 0xF3 } ∧
      s.timer.divider = 0 ∧ s.ppu.linePosition = 0 ∧
      s.dma.running = false ∧ s.dma.position = 0 ∧ s.dma.phase = 0 ∧
      s.hdma.src = 0 ∧ s.hdma.dst = 0 ∧ s.hdma.active = false ∧ s.hdma.field = 0x7F ∧
      s.ppu.vbk = 0 ∧ s.svbk = 0 ∧ wbank s = 1 ∧
      s.ppu.bgIndex = 0 ∧ s.ppu.bgInc = false ∧ s.ppu.objIndex = 0 ∧ s.ppu.objInc = false ∧
      (m = true → busRead s 0xFF4F = 0xFE ∧ busRead s 0xFF70 = 0xF8 ∧ busRead s 0xFF68 = 0x40 ∧ busRead s 0xFF6A = 0x40) ∧
      s.spu.ch4.lfsr = 0x7FFF ∧ s.gbcMode = m ∧ s.mem = mem ∧ s.cart = cart

/-! ## Display and HDMA address registers -/

/-- The display registers that only hold a byte, SCY, SCX, LYC, BGP, OBP0, OBP1, WY and WX: each reads back the byte written, and
a write changes nothing else (10_state.md R80, R82, R84, R85). In GBC mode HDMA1 and HDMA2 set the source's two bytes and HDMA3
and HDMA4 the destination's, the low nibble of the address cut to 0, and nothing else; the four read 0xFF (10_state.md R87,
62_dma_hdma.md R690). -/
def Obligations.DisplayAndHdmaAddressRegisters : Prop :=
  ∀ (s : State) (v : Byte),
    busWrite s 0xFF42 v = { s with ppu := { s.ppu with scy := v } } ∧ busRead s 0xFF42 = s.ppu.scy ∧
    busWrite s 0xFF43 v = { s with ppu := { s.ppu with scx := v } } ∧ busRead s 0xFF43 = s.ppu.scx ∧
    busWrite s 0xFF45 v = { s with ppu := { s.ppu with lyc := v } } ∧ busRead s 0xFF45 = s.ppu.lyc ∧
    busWrite s 0xFF47 v = { s with ppu := { s.ppu with bgp := v } } ∧ busRead s 0xFF47 = s.ppu.bgp ∧
    busWrite s 0xFF48 v = { s with ppu := { s.ppu with obp0 := v } } ∧ busRead s 0xFF48 = s.ppu.obp0 ∧
    busWrite s 0xFF49 v = { s with ppu := { s.ppu with obp1 := v } } ∧ busRead s 0xFF49 = s.ppu.obp1 ∧
    busWrite s 0xFF4A v = { s with ppu := { s.ppu with wy := v } } ∧ busRead s 0xFF4A = s.ppu.wy ∧
    busWrite s 0xFF4B v = { s with ppu := { s.ppu with wx := v } } ∧ busRead s 0xFF4B = s.ppu.wx ∧
    (s.gbcMode = true →
      (∃ a : Word, a.toNat = 256 * v.toNat + s.hdma.src.toNat % 256 ∧
        busWrite s 0xFF51 v = { s with hdma := { s.hdma with src := a } }) ∧
      (∃ a : Word, a.toNat = s.hdma.src.toNat / 256 * 256 + v.toNat / 16 * 16 ∧
        busWrite s 0xFF52 v = { s with hdma := { s.hdma with src := a } }) ∧
      (∃ a : BitVec 13, a.toNat = 256 * (v.toNat % 32) + s.hdma.dst.toNat % 256 ∧
        busWrite s 0xFF53 v = { s with hdma := { s.hdma with dst := a } }) ∧
      (∃ a : BitVec 13, a.toNat = s.hdma.dst.toNat / 256 * 256 + v.toNat / 16 * 16 ∧
        busWrite s 0xFF54 v = { s with hdma := { s.hdma with dst := a } }) ∧
      busRead s 0xFF51 = 0xFF ∧ busRead s 0xFF52 = 0xFF ∧ busRead s 0xFF53 = 0xFF ∧ busRead s 0xFF54 = 0xFF)
end

