-- ==== Sys2Proof/Laws/State.lean ====
section
/-! SUPPORT. The small lemmas of the state's named updates. Every update of CPU registers is turned into one `withCpu`, which is
pushed outwards, so that a meaning ends as `(devices advanced).withCpu (registers)`. -/

namespace Sys2Proof.Machine

/-! ## withCpu -/

@[simp] theorem State.withCpu_cpu (s : State) (c : Cpu) : (s.withCpu c).cpu = c := rfl
@[simp] theorem State.withCpu_fault (s : State) (c : Cpu) : (s.withCpu c).fault = s.fault := rfl
@[simp] theorem State.withCpu_t (s : State) (c : Cpu) : (s.withCpu c).t = s.t := rfl
@[simp] theorem State.withCpu_gbcMode (s : State) (c : Cpu) : (s.withCpu c).gbcMode = s.gbcMode := rfl
@[simp] theorem State.withCpu_int (s : State) (c : Cpu) : (s.withCpu c).int = s.int := rfl
@[simp] theorem State.withCpu_mem (s : State) (c : Cpu) : (s.withCpu c).mem = s.mem := rfl
@[simp] theorem State.withCpu_svbk (s : State) (c : Cpu) : (s.withCpu c).svbk = s.svbk := rfl
@[simp] theorem State.withCpu_timer (s : State) (c : Cpu) : (s.withCpu c).timer = s.timer := rfl
@[simp] theorem State.withCpu_dma (s : State) (c : Cpu) : (s.withCpu c).dma = s.dma := rfl
@[simp] theorem State.withCpu_hdma (s : State) (c : Cpu) : (s.withCpu c).hdma = s.hdma := rfl
@[simp] theorem State.withCpu_ppu (s : State) (c : Cpu) : (s.withCpu c).ppu = s.ppu := rfl
@[simp] theorem State.withCpu_spu (s : State) (c : Cpu) : (s.withCpu c).spu = s.spu := rfl
@[simp] theorem State.withCpu_cart (s : State) (c : Cpu) : (s.withCpu c).cart = s.cart := rfl
@[simp] theorem State.withCpu_io (s : State) (c : Cpu) : (s.withCpu c).io = s.io := rfl
@[simp] theorem State.withCpu_withCpu (s : State) (c d : Cpu) : (s.withCpu c).withCpu d = s.withCpu d := rfl
@[simp] theorem State.withCpu_self (s : State) : s.withCpu s.cpu = s := rfl

/-- Two machines that differ in the CPU registers alone are equal when those are. -/
theorem State.withCpu_inj {s : State} {c d : Cpu} : s.withCpu c = s.withCpu d ↔ c = d :=
  ⟨fun h => congrArg State.cpu h, fun h => h ▸ rfl⟩

/-! ## The named register writes -/

@[simp] theorem State.setPc_eq (s : State) (a : Word) : s.setPc a = s.withCpu { s.cpu with pc := a } := rfl
@[simp] theorem State.setSp_eq (s : State) (v : Word) : s.setSp v = s.withCpu { s.cpu with sp := v } := rfl
@[simp] theorem State.setA_eq (s : State) (v : Byte) : s.setA v = s.withCpu { s.cpu with a := v } := rfl
@[simp] theorem State.setF_eq (s : State) (f : Flags) : s.setF f = s.withCpu { s.cpu with f := f } := rfl
@[simp] theorem State.setIme_eq (s : State) (b : Bool) : s.setIme b = s.withCpu { s.cpu with ime := b } := rfl
@[simp] theorem State.setHl_eq (s : State) (v : Word) : s.setHl v = s.withCpu (s.cpu.setHl v) := rfl
@[simp] theorem State.set8_eq (s : State) (r : R8) (v : Byte) : s.set8 r v = s.withCpu (s.cpu.set8 r v) := rfl
@[simp] theorem State.set16_eq (s : State) (p : R16) (v : Word) : s.set16 p v = s.withCpu (s.cpu.set16 p v) := rfl

/-! ## What a register write leaves -/

@[simp] theorem Cpu.set8_f (c : Cpu) (r : R8) (v : Byte) : (c.set8 r v).f = c.f := by cases r <;> rfl
@[simp] theorem Cpu.set8_sp (c : Cpu) (r : R8) (v : Byte) : (c.set8 r v).sp = c.sp := by cases r <;> rfl
@[simp] theorem Cpu.set8_pc (c : Cpu) (r : R8) (v : Byte) : (c.set8 r v).pc = c.pc := by cases r <;> rfl
@[simp] theorem Cpu.set8_ime (c : Cpu) (r : R8) (v : Byte) : (c.set8 r v).ime = c.ime := by cases r <;> rfl
@[simp] theorem Cpu.set8_eiPending (c : Cpu) (r : R8) (v : Byte) : (c.set8 r v).eiPending = c.eiPending := by cases r <;> rfl
@[simp] theorem Cpu.set8_halted (c : Cpu) (r : R8) (v : Byte) : (c.set8 r v).halted = c.halted := by cases r <;> rfl
@[simp] theorem Cpu.setHl_a (c : Cpu) (v : Word) : (c.setHl v).a = c.a := rfl
@[simp] theorem Cpu.setHl_b (c : Cpu) (v : Word) : (c.setHl v).b = c.b := rfl
@[simp] theorem Cpu.setHl_c (c : Cpu) (v : Word) : (c.setHl v).c = c.c := rfl
@[simp] theorem Cpu.setHl_d (c : Cpu) (v : Word) : (c.setHl v).d = c.d := rfl
@[simp] theorem Cpu.setHl_e (c : Cpu) (v : Word) : (c.setHl v).e = c.e := rfl
@[simp] theorem Cpu.setHl_f (c : Cpu) (v : Word) : (c.setHl v).f = c.f := rfl
@[simp] theorem Cpu.setHl_sp (c : Cpu) (v : Word) : (c.setHl v).sp = c.sp := rfl
@[simp] theorem Cpu.setHl_pc (c : Cpu) (v : Word) : (c.setHl v).pc = c.pc := rfl
@[simp] theorem Cpu.setHl_ime (c : Cpu) (v : Word) : (c.setHl v).ime = c.ime := rfl
@[simp] theorem Cpu.setHl_eiPending (c : Cpu) (v : Word) : (c.setHl v).eiPending = c.eiPending := rfl
@[simp] theorem Cpu.setHl_halted (c : Cpu) (v : Word) : (c.setHl v).halted = c.halted := rfl
@[simp] theorem Cpu.set16_a (c : Cpu) (p : R16) (v : Word) : (c.set16 p v).a = c.a := by cases p <;> rfl
@[simp] theorem Cpu.set16_f (c : Cpu) (p : R16) (v : Word) : (c.set16 p v).f = c.f := by cases p <;> rfl
@[simp] theorem Cpu.set16_pc (c : Cpu) (p : R16) (v : Word) : (c.set16 p v).pc = c.pc := by cases p <;> rfl
@[simp] theorem Cpu.set16_ime (c : Cpu) (p : R16) (v : Word) : (c.set16 p v).ime = c.ime := by cases p <;> rfl
@[simp] theorem Cpu.set16_eiPending (c : Cpu) (p : R16) (v : Word) : (c.set16 p v).eiPending = c.eiPending := by cases p <;> rfl
@[simp] theorem Cpu.set16_halted (c : Cpu) (p : R16) (v : Word) : (c.set16 p v).halted = c.halted := by cases p <;> rfl
@[simp] theorem Cpu.set16p_a (c : Cpu) (q : R16p) (v : Word) : (c.set16p q v).a = c.a := by cases q <;> rfl
@[simp] theorem Cpu.set16p_f (c : Cpu) (q : R16p) (v : Word) : (c.set16p q v).f = c.f := by cases q <;> rfl
@[simp] theorem Cpu.set16p_sp (c : Cpu) (q : R16p) (v : Word) : (c.set16p q v).sp = c.sp := by cases q <;> rfl
@[simp] theorem Cpu.set16p_pc (c : Cpu) (q : R16p) (v : Word) : (c.set16p q v).pc = c.pc := by cases q <;> rfl
@[simp] theorem Cpu.set16p_ime (c : Cpu) (q : R16p) (v : Word) : (c.set16p q v).ime = c.ime := by cases q <;> rfl
@[simp] theorem Cpu.set16p_eiPending (c : Cpu) (q : R16p) (v : Word) : (c.set16p q v).eiPending = c.eiPending := by cases q <;> rfl
@[simp] theorem Cpu.set16p_halted (c : Cpu) (q : R16p) (v : Word) : (c.set16p q v).halted = c.halted := by cases q <;> rfl

/-- A register reads back what was written to it, and every other register is unchanged. -/
theorem Cpu.get8_set8 (c : Cpu) (r q : R8) (v : Byte) :
    (c.set8 r v).get8 q = if q = r then v else c.get8 q := by
  cases r <;> cases q <;> rfl

@[simp] theorem Cpu.get8_set8_self (c : Cpu) (r : R8) (v : Byte) : (c.set8 r v).get8 r = v := by
  cases r <;> rfl

/-! ## Pairs (10_state.md R31) -/

theorem toNat_cat16 (hi lo : Byte) : (cat16 hi lo).toNat = hi.toNat * 256 + lo.toNat := by
  show (hi ++ lo : BitVec (8 + 8)).toNat = _
  rw [BitVec.toNat_append, ← Nat.shiftLeft_add_eq_or_of_lt lo.isLt, Nat.shiftLeft_eq]

theorem toNat_hiByte (v : Word) : (hiByte v).toNat = v.toNat / 256 := by
  have := v.isLt
  rw [hiByte, BitVec.extractLsb'_toNat, Nat.shiftRight_eq_div_pow]
  omega

theorem toNat_loByte (v : Word) : (loByte v).toNat = v.toNat % 256 := by
  rw [loByte, BitVec.extractLsb'_toNat, Nat.shiftRight_zero]

theorem cat16_hi_lo (v : Word) : cat16 (hiByte v) (loByte v) = v := by
  apply BitVec.eq_of_toNat_eq
  rw [toNat_cat16, toNat_hiByte, toNat_loByte]
  omega

@[simp] theorem hiByte_cat16 (hi lo : Byte) : hiByte (cat16 hi lo) = hi := by
  apply BitVec.eq_of_toNat_eq
  have := lo.isLt
  rw [toNat_hiByte, toNat_cat16]
  omega

@[simp] theorem loByte_cat16 (hi lo : Byte) : loByte (cat16 hi lo) = lo := by
  apply BitVec.eq_of_toNat_eq
  have := lo.isLt
  rw [toNat_loByte, toNat_cat16]
  omega

@[simp] theorem Cpu.setHl_hl (c : Cpu) (v : Word) : (c.setHl v).hl = v := cat16_hi_lo v
@[simp] theorem Cpu.setBc_bc (c : Cpu) (v : Word) : (c.setBc v).bc = v := cat16_hi_lo v
@[simp] theorem Cpu.setDe_de (c : Cpu) (v : Word) : (c.setDe v).de = v := cat16_hi_lo v

/-- A pair reads back what was written to it. -/
@[simp] theorem Cpu.get16_set16 (c : Cpu) (p : R16) (v : Word) : (c.set16 p v).get16 p = v := by
  cases p <;> first | exact cat16_hi_lo v | rfl

/-! ## F as a byte (10_state.md R32) -/

@[simp] theorem Flags.ofByte_toByte (f : Flags) : Flags.ofByte f.toByte = f := by
  obtain ⟨z, n, h, c⟩ := f
  cases z <;> cases n <;> cases h <;> cases c <;> rfl

end Sys2Proof.Machine
end

