-- ==== Sys2Proof/Laws/Devices.lean ====
section
/-! SUPPORT. No device and no bus access looks at the CPU's registers: each commutes with a register write, and so leaves the
registers as they are. -/

namespace Sys2Proof.Machine

variable (s : State) (c : Cpu)

/-! ## Reads -/

@[simp] theorem withCpu_vbank : vbank (s.withCpu c) = vbank s := rfl
@[simp] theorem withCpu_wbank : wbank (s.withCpu c) = wbank s := rfl
@[simp] theorem withCpu_locate (a : Word) : locate (s.withCpu c) a = locate s a := rfl
@[simp] theorem withCpu_busRead (a : Word) : busRead (s.withCpu c) a = busRead s a := rfl
@[simp] theorem withCpu_pending : pending (s.withCpu c) = pending s := rfl

theorem withCpu_overlaySprite (back : BitVec 2) (ly x : Nat) (sprites : List Sprite) :
    overlaySprite (s.withCpu c) back ly x sprites = overlaySprite s back ly x sprites := by
  induction sprites with
  | nil => rfl
  | cons sp rest ih =>
    simp only [overlaySprite, ih]
    rfl

theorem withCpu_pixelSource (sprites : List Sprite) (ly x : Nat) :
    pixelSource (s.withCpu c) sprites ly x = pixelSource s sprites ly x := by
  simp only [pixelSource, withCpu_overlaySprite]
  rfl

@[simp] theorem withCpu_lineOutput (ly : Nat) : lineOutput (s.withCpu c) ly = lineOutput s ly := by
  simp only [lineOutput, funext (withCpu_pixelSource s c _ ly)]
  rfl

/-! ## Device steps -/

/-- A register write goes into both branches. -/
theorem withCpu_ite (p : Prop) [Decidable p] (a b : State) :
    (if p then a else b).withCpu c = if p then a.withCpu c else b.withCpu c := by
  split <;> rfl

@[simp] theorem withCpu_requestInterrupt (k : Nat) :
    requestInterrupt k (s.withCpu c) = (requestInterrupt k s).withCpu c := rfl

@[simp] theorem withCpu_requestStatIf (b : Bool) :
    requestStatIf b (s.withCpu c) = (requestStatIf b s).withCpu c := by
  cases b <;> rfl

@[simp] theorem withCpu_emit (o : Output) : emit o (s.withCpu c) = (emit o s).withCpu c := rfl

/-- `repeatN` keeps what the repeated step keeps. -/
theorem withCpu_repeatN {f : State → State} (hf : ∀ s c, f (s.withCpu c) = (f s).withCpu c) (n : Nat) :
    repeatN f n (s.withCpu c) = (repeatN f n s).withCpu c := by
  induction n generalizing s with
  | zero => rfl
  | succ n ih => simp only [repeatN, hf, ih]

theorem withCpu_hdmaCopyByte : hdmaCopyByte (s.withCpu c) = (hdmaCopyByte s).withCpu c := rfl

@[simp] theorem withCpu_hdmaBlock : hdmaBlock (s.withCpu c) = (hdmaBlock s).withCpu c := by
  unfold hdmaBlock
  rw [withCpu_repeatN s c withCpu_hdmaCopyByte]
  generalize repeatN hdmaCopyByte 16 s = u
  simp only [withCpu_ite]
  rfl

@[simp] theorem withCpu_dmaCycle : dmaCycle (s.withCpu c) = (dmaCycle s).withCpu c := by
  simp only [dmaCycle, withCpu_ite]
  rfl

@[simp] theorem withCpu_timerTick : timerTick (s.withCpu c) = (timerTick s).withCpu c := by
  simp only [timerTick, withCpu_ite]
  rfl

@[simp] theorem withCpu_timerCycle : timerCycle (s.withCpu c) = (timerCycle s).withCpu c := by
  simp only [timerCycle, withCpu_ite, ← withCpu_timerTick]
  rfl

@[simp] theorem withCpu_spuCycle : spuCycle (s.withCpu c) = (spuCycle s).withCpu c := by
  simp only [spuCycle, withCpu_ite]
  rfl

@[simp] theorem withCpu_hblankEntry : hblankEntry (s.withCpu c) = (hblankEntry s).withCpu c := by
  simp only [hblankEntry, withCpu_lineOutput, State.withCpu_ppu, withCpu_emit, withCpu_requestStatIf,
    State.withCpu_hdma, withCpu_hdmaBlock, withCpu_ite]

@[simp] theorem withCpu_vblankEntry : vblankEntry (s.withCpu c) = (vblankEntry s).withCpu c := by
  unfold vblankEntry
  simp only [State.withCpu_ppu, withCpu_requestInterrupt, withCpu_requestStatIf, withCpu_emit]

/-- Another PPU and other registers, in either order. -/
theorem withCpu_ppu_comm (p : Ppu) :
    { s.withCpu c with ppu := p } = ({ s with ppu := p } : State).withCpu c := rfl

@[simp] theorem withCpu_lineEnd : lineEnd (s.withCpu c) = (lineEnd s).withCpu c := by
  simp only [lineEnd, State.withCpu_ppu, withCpu_ppu_comm, withCpu_vblankEntry, ← withCpu_ite, withCpu_requestStatIf]

@[simp] theorem withCpu_ppuCycle : ppuCycle (s.withCpu c) = (ppuCycle s).withCpu c := by
  simp only [ppuCycle, State.withCpu_ppu, withCpu_ppu_comm, withCpu_hblankEntry, withCpu_lineEnd, ← withCpu_ite]

@[simp] theorem withCpu_cartCycle (now : Nat) : cartCycle now (s.withCpu c) = (cartCycle now s).withCpu c := by
  simp only [cartCycle, withCpu_ite]
  rfl

@[simp] theorem withCpu_cartSlot (t : Nat) : cartSlot t (s.withCpu c) = (cartSlot t s).withCpu c := by
  simp only [cartSlot, withCpu_cartCycle]

/-- A slot and a register write, in either order. -/
@[simp] theorem withCpu_cycle : cycle (s.withCpu c) = (cycle s).withCpu c := by
  have h : { s.withCpu c with t := (s.withCpu c).t + slotCycles }
      = ({ s with t := s.t + slotCycles } : State).withCpu c := rfl
  simp only [cycle, h, withCpu_repeatN _ c withCpu_ppuCycle, withCpu_repeatN _ c withCpu_dmaCycle,
    withCpu_repeatN _ c withCpu_timerCycle, withCpu_repeatN _ c withCpu_spuCycle, withCpu_cartSlot]
  rfl

/-! ## Writes -/

@[simp] theorem withCpu_readWall : readWall (s.withCpu c) = ((readWall s).1, (readWall s).2.withCpu c) := by
  simp only [readWall, State.withCpu_io]
  cases s.io.wallQueue <;> rfl

@[simp] theorem withCpu_rtcNow : rtcNow (s.withCpu c) = ((rtcNow s).1, (rtcNow s).2.withCpu c) := by
  simp only [rtcNow, State.withCpu_cart, withCpu_readWall]
  cases s.cart.rtc.halted <;> rfl

theorem withCpu_setRtc (r : Rtc) : (s.withCpu c).setRtc r = (s.setRtc r).withCpu c := rfl

@[simp] theorem withCpu_rtcLatch : rtcLatch (s.withCpu c) = (rtcLatch s).withCpu c := by
  simp only [rtcLatch, State.withCpu_cart, withCpu_rtcNow, withCpu_setRtc, withCpu_ite]

@[simp] theorem withCpu_rtcWrite (v : Byte) : rtcWrite (s.withCpu c) v = (rtcWrite s v).withCpu c := by
  simp only [rtcWrite, State.withCpu_cart, withCpu_readWall, withCpu_setRtc, withCpu_ite]

@[simp] theorem withCpu_markDirty : markDirty (s.withCpu c) = (markDirty s).withCpu c := rfl

@[simp] theorem withCpu_extWrite (off : Nat) (v : Byte) :
    extWrite (s.withCpu c) off v = (extWrite s off v).withCpu c := by
  simp only [extWrite, State.withCpu_cart, withCpu_rtcWrite, withCpu_markDirty]
  cases s.cart.ramEnable
  · rfl
  · cases s.cart.extLocate off <;> rfl

@[simp] theorem withCpu_mapperWrite (n : Nat) (v : Byte) :
    mapperWrite (s.withCpu c) n v = (mapperWrite s n v).withCpu c := by
  simp only [mapperWrite, State.withCpu_cart, withCpu_rtcLatch, ← withCpu_ite]
  cases s.cart.mapper <;> rfl

theorem withCpu_blankLines (gbc : Bool) (ly n : Nat) :
    blankLines gbc ly n (s.withCpu c) = (blankLines gbc ly n s).withCpu c := by
  induction n generalizing ly s with
  | zero => rfl
  | succ n ih => simp only [blankLines, withCpu_emit, ih]

@[simp] theorem withCpu_lcdcWrite (v : Byte) : lcdcWrite (s.withCpu c) v = (lcdcWrite s v).withCpu c := by
  simp only [lcdcWrite, State.withCpu_ppu, withCpu_ppu_comm, withCpu_blankLines, withCpu_ite]
  rfl

@[simp] theorem withCpu_dmaWrite (v : Byte) : dmaWrite (s.withCpu c) v = (dmaWrite s v).withCpu c := by
  simp only [dmaWrite, withCpu_ite]
  rfl

/-- Another HDMA engine and other registers, in either order. -/
theorem withCpu_hdma_comm (d : Hdma) :
    { s.withCpu c with hdma := d } = ({ s with hdma := d } : State).withCpu c := rfl

@[simp] theorem withCpu_hdmaBulk : hdmaBulk (s.withCpu c) = (hdmaBulk s).withCpu c := by
  simp only [hdmaBulk, State.withCpu_hdma, withCpu_repeatN _ c withCpu_hdmaCopyByte, withCpu_hdma_comm,
    withCpu_repeatN _ c withCpu_cycle]

@[simp] theorem withCpu_hdma5Write (v : Byte) : hdma5Write (s.withCpu c) v = (hdma5Write s v).withCpu c := by
  simp only [hdma5Write, State.withCpu_hdma, withCpu_hdma_comm, withCpu_hdmaBulk, withCpu_ite]

@[simp] theorem withCpu_ioWriteGbc (off : Nat) (v : Byte) :
    ioWriteGbc (s.withCpu c) off v = (ioWriteGbc s off v).withCpu c := by
  unfold ioWriteGbc
  simp only [withCpu_hdma5Write]
  split <;> rfl

@[simp] theorem withCpu_ioWrite (off : Nat) (v : Byte) :
    ioWrite (s.withCpu c) off v = (ioWrite s off v).withCpu c := by
  unfold ioWrite
  simp only [withCpu_lcdcWrite, withCpu_dmaWrite, withCpu_ioWriteGbc, State.withCpu_gbcMode, withCpu_ite]
  congr 1
  congr 1
  split <;> first | rfl | simp only [withCpu_ite]

/-- A bus write and a register write, in either order. -/
@[simp] theorem withCpu_busWrite (a : Word) (v : Byte) :
    busWrite (s.withCpu c) a v = (busWrite s a v).withCpu c := by
  simp only [busWrite, withCpu_locate, withCpu_mapperWrite, withCpu_extWrite, withCpu_ioWrite]
  cases locate s a <;> rfl

/-! ## The registers after a device step or a bus write -/

/-- What commutes with every register write leaves the registers as they are. -/
theorem cpu_of_withCpu {f : State → State} (hf : ∀ s c, f (s.withCpu c) = (f s).withCpu c) : (f s).cpu = s.cpu := by
  have h := congrArg State.cpu (hf s s.cpu)
  simpa using h

@[simp] theorem cycle_cpu : (cycle s).cpu = s.cpu := cpu_of_withCpu s withCpu_cycle

@[simp] theorem busWrite_cpu (a : Word) (v : Byte) : (busWrite s a v).cpu = s.cpu :=
  cpu_of_withCpu (f := fun s => busWrite s a v) s fun s c => withCpu_busWrite s c a v

/-- Writing back the registers a machine already has changes nothing. -/
theorem withCpu_of_cpu {s : State} {c : Cpu} (h : s.cpu = c) : s.withCpu c = s := h ▸ rfl

@[simp] theorem cycle_withCpu_self : (cycle s).withCpu s.cpu = cycle s := withCpu_of_cpu (cycle_cpu s)

@[simp] theorem cycle2_withCpu_self : (cycle (cycle s)).withCpu s.cpu = cycle (cycle s) :=
  withCpu_of_cpu (by simp)

@[simp] theorem busWrite_withCpu_self (a : Word) (v : Byte) :
    (busWrite (cycle s) a v).withCpu s.cpu = busWrite (cycle s) a v :=
  withCpu_of_cpu (by simp)

/-! ## The primitives of 00_scope.md R11 -/

@[simp] theorem memRead_eq (a : Word) : memRead a s = (busRead (cycle s) a, cycle s) := rfl
@[simp] theorem memWrite_eq (a : Word) (v : Byte) : memWrite a v s = busWrite (cycle s) a v := rfl
@[simp] theorem internal_eq : internal s = cycle s := rfl

/-- `Fetch8()`: the byte at PC after the slot, and PC past it. -/
@[simp] theorem fetch8_eq :
    fetch8 s = (busRead (cycle s) s.cpu.pc, (cycle s).withCpu { s.cpu with pc := s.cpu.pc + 1 }) := by
  simp [fetch8]

/-- `Push16(v)`: two slots, two bus writes, SP less 2. -/
theorem push16_eq (v : Word) :
    push16 v s =
      (busWrite (cycle (busWrite (cycle s) (s.cpu.sp - 1) (hiByte v))) (s.cpu.sp - 1 - 1) (loByte v)).withCpu
        { s.cpu with sp := s.cpu.sp - 1 - 1 } := by
  simp [push16]

/-- `Pop16()`: two slots, two bus reads, SP plus 2. -/
theorem pop16_eq :
    pop16 s =
      (cat16 (busRead (cycle (cycle s)) (s.cpu.sp + 1)) (busRead (cycle s) s.cpu.sp),
        (cycle (cycle s)).withCpu { s.cpu with sp := s.cpu.sp + 1 + 1 }) := by
  simp [pop16]

end Sys2Proof.Machine
end

