-- ==== Sys2Proof/Laws/Advance.lean ====
section
/-! SUPPORT. Everything a device step can do, said once: `Advance s t` lists what every device step leaves as it was, and
`cycle_advance` says that a bus slot does no more. -/

namespace Sys2Proof.Machine

/-- `t` comes from `s` by device steps: only OAM, VRAM, IF (which only gains bits), LY and line_position, the timer's counter and
TIMA, the copy engines' positions, the SPU, the dirty bit and the output trace (which only grows) can differ. -/
structure Advance (s t : State) : Prop where
  cpu : t.cpu = s.cpu
  fault : t.fault = s.fault
  time : t.t = s.t
  gbcMode : t.gbcMode = s.gbcMode
  svbk : t.svbk = s.svbk
  enable : t.int.enable = s.int.enable
  request : s.int.request &&& t.int.request = s.int.request
  mem : t.mem = { s.mem with oam := t.mem.oam, vram := t.mem.vram }
  tma : t.timer.tma = s.timer.tma
  tac : t.timer.tac = s.timer.tac
  dmaSrc : t.dma.src = s.dma.src
  dmaLast : t.dma.last = s.dma.last
  ppu : t.ppu = { s.ppu with ly := t.ppu.ly, linePosition := t.ppu.linePosition }
  cart : t.cart = { s.cart with dirty := t.cart.dirty }
  io : t.io = { s.io with trace := t.io.trace }
  trace : s.io.trace <:+ t.io.trace

theorem Advance.refl (s : State) : Advance s s where
  cpu := rfl
  fault := rfl
  time := rfl
  gbcMode := rfl
  svbk := rfl
  enable := rfl
  request := BitVec.and_self
  mem := rfl
  tma := rfl
  tac := rfl
  dmaSrc := rfl
  dmaLast := rfl
  ppu := rfl
  cart := rfl
  io := rfl
  trace := List.suffix_rfl

theorem Advance.trans {s t u : State} (h : Advance s t) (k : Advance t u) : Advance s u where
  cpu := k.cpu.trans h.cpu
  fault := k.fault.trans h.fault
  time := k.time.trans h.time
  gbcMode := k.gbcMode.trans h.gbcMode
  svbk := k.svbk.trans h.svbk
  enable := k.enable.trans h.enable
  request := by
    have h1 := h.request
    have h2 := k.request
    calc s.int.request &&& u.int.request
        = (s.int.request &&& t.int.request) &&& u.int.request := by rw [h1]
      _ = s.int.request &&& t.int.request := by rw [BitVec.and_assoc, h2]
      _ = s.int.request := h1
  mem := by rw [k.mem, h.mem]
  tma := k.tma.trans h.tma
  tac := k.tac.trans h.tac
  dmaSrc := k.dmaSrc.trans h.dmaSrc
  dmaLast := k.dmaLast.trans h.dmaLast
  ppu := by rw [k.ppu, h.ppu]
  cart := by rw [k.cart, h.cart]
  io := by rw [k.io, h.io]
  trace := h.trace.trans k.trace

/-! ## The device steps -/

theorem Advance.repeatN {f : State → State} (hf : ∀ s, Advance s (f s)) (n : Nat) (s : State) :
    Advance s (repeatN f n s) := by
  induction n generalizing s with
  | zero => exact Advance.refl s
  | succ n ih => exact (hf s).trans (ih (f s))

theorem Advance.ite {s t u : State} {p : Prop} [Decidable p] (h : Advance s t) (k : Advance s u) :
    Advance s (if p then t else u) := by
  split
  · exact h
  · exact k

theorem and_or_self {w : Nat} (a b : BitVec w) : a &&& (a ||| b) = a := by
  ext i hi
  simp only [BitVec.getElem_and, BitVec.getElem_or]
  cases a[i] <;> simp

theorem requestInterrupt_advance (k : Nat) (s : State) : Advance s (requestInterrupt k s) :=
  { Advance.refl s with request := and_or_self _ _ }

theorem requestStatIf_advance (b : Bool) (s : State) : Advance s (requestStatIf b s) := by
  cases b
  · exact Advance.refl s
  · exact requestInterrupt_advance 1 s

theorem emit_advance (o : Output) (s : State) : Advance s (emit o s) :=
  { Advance.refl s with io := rfl, trace := List.suffix_cons _ _ }

theorem hdmaCopyByte_advance (s : State) : Advance s (hdmaCopyByte s) := { Advance.refl s with mem := rfl }

theorem withHdma_advance (s : State) (d : Hdma) : Advance s { s with hdma := d } := { Advance.refl s with mem := rfl }

theorem hdmaBlock_advance (s : State) : Advance s (hdmaBlock s) := by
  unfold hdmaBlock
  refine (Advance.repeatN hdmaCopyByte_advance 16 s).trans ?_
  generalize repeatN hdmaCopyByte 16 s = u
  exact Advance.ite (withHdma_advance u _) (withHdma_advance u _)

theorem dmaCycle_advance (s : State) : Advance s (dmaCycle s) :=
  Advance.ite (Advance.ite { Advance.refl s with mem := rfl } { Advance.refl s with mem := rfl }) (Advance.refl s)

theorem withTima_advance (s : State) (v : Byte) : Advance s { s with timer := { s.timer with tima := v } } :=
  { Advance.refl s with mem := rfl }

theorem withDivider_advance (s : State) (v : Word) : Advance s { s with timer := { s.timer with divider := v } } :=
  { Advance.refl s with mem := rfl }

theorem timerTick_advance (s : State) : Advance s (timerTick s) := by
  unfold timerTick
  exact Advance.ite ((withTima_advance s _).trans (requestInterrupt_advance 2 _)) (withTima_advance s _)

theorem timerCycle_advance (s : State) : Advance s (timerCycle s) := by
  unfold timerCycle
  exact (withDivider_advance s _).trans (Advance.ite (timerTick_advance _) (Advance.refl _))

theorem withSpu_advance (s : State) (p : Spu) : Advance s { s with spu := p } := { Advance.refl s with mem := rfl }

theorem spuCycle_advance (s : State) : Advance s (spuCycle s) := by
  unfold spuCycle
  exact Advance.ite ((withSpu_advance s _).trans (emit_advance _ _)) (withSpu_advance s _)

theorem hblankEntry_advance (s : State) : Advance s (hblankEntry s) := by
  unfold hblankEntry
  extract_lets s1 s2
  have h1 : Advance s s1 := emit_advance _ s
  have h2 : Advance s1 s2 := requestStatIf_advance _ s1
  exact h1.trans (h2.trans (Advance.ite (hdmaBlock_advance s2) (Advance.refl s2)))

theorem vblankEntry_advance (s : State) : Advance s (vblankEntry s) :=
  (requestInterrupt_advance 0 s).trans ((requestStatIf_advance _ _).trans (emit_advance _ _))

theorem withLine_advance (s : State) (ly line : Nat) :
    Advance s { s with ppu := { s.ppu with ly := ly, linePosition := line } } :=
  { Advance.refl s with mem := rfl, ppu := rfl }

theorem lineEnd_advance (s : State) : Advance s (lineEnd s) := by
  unfold lineEnd
  extract_lets _ s1 s2 _ s3 s4
  have h1 : Advance s s1 := withLine_advance s _ _
  have h2 : Advance s1 s2 := Advance.ite (vblankEntry_advance s1) (Advance.refl s1)
  have h3 : Advance s2 s3 := Advance.ite (withLine_advance s2 0 _) (Advance.refl s2)
  have h4 : Advance s3 s4 := requestStatIf_advance _ s3
  exact h1.trans (h2.trans (h3.trans (h4.trans (requestStatIf_advance _ s4))))

theorem ppuCycle_advance (s : State) : Advance s (ppuCycle s) := by
  unfold ppuCycle
  extract_lets _ s1 s2
  have h1 : Advance s s1 := withLine_advance s _ _
  have h2 : Advance s1 s2 := Advance.ite (hblankEntry_advance s1) (Advance.refl s1)
  exact Advance.ite (h1.trans (h2.trans (Advance.ite (lineEnd_advance s2) (Advance.refl s2)))) (Advance.refl s)

theorem withDirty_advance (s : State) (b : Bool) : Advance s { s with cart := { s.cart with dirty := b } } :=
  { Advance.refl s with mem := rfl, cart := rfl }

theorem cartCycle_advance (now : Nat) (s : State) : Advance s (cartCycle now s) := by
  unfold cartCycle
  exact Advance.ite ((withDirty_advance s false).trans (emit_advance _ _)) (Advance.refl s)

theorem cartSlot_advance (t : Nat) (s : State) : Advance s (cartSlot t s) :=
  (cartCycle_advance _ s).trans
    ((cartCycle_advance _ _).trans ((cartCycle_advance _ _).trans (cartCycle_advance _ _)))

/-- A slot: T plus 4, and no more than the devices do. -/
theorem cycle_advance (s : State) : Advance { s with t := s.t + 4 } (cycle s) :=
  (Advance.repeatN ppuCycle_advance 4 _).trans
    ((Advance.repeatN dmaCycle_advance 4 _).trans
      ((Advance.repeatN timerCycle_advance 4 _).trans
        ((Advance.repeatN spuCycle_advance 4 _).trans (cartSlot_advance _ _))))

/-! ## What a slot leaves, field by field -/

@[simp] theorem cycle_t (s : State) : (cycle s).t = s.t + 4 := (cycle_advance s).time
@[simp] theorem cycle_fault (s : State) : (cycle s).fault = s.fault := (cycle_advance s).fault
@[simp] theorem cycle_gbcMode (s : State) : (cycle s).gbcMode = s.gbcMode := (cycle_advance s).gbcMode
@[simp] theorem cycle_svbk (s : State) : (cycle s).svbk = s.svbk := (cycle_advance s).svbk
@[simp] theorem cycle_enable (s : State) : (cycle s).int.enable = s.int.enable := (cycle_advance s).enable

theorem Advance.rom {s t : State} (h : Advance s t) : t.mem.rom = s.mem.rom := by rw [h.mem]
theorem Advance.wram {s t : State} (h : Advance s t) : t.mem.wram = s.mem.wram := by rw [h.mem]
theorem Advance.zp {s t : State} (h : Advance s t) : t.mem.zp = s.mem.zp := by rw [h.mem]
theorem Advance.cartRam {s t : State} (h : Advance s t) : t.mem.cartRam = s.mem.cartRam := by rw [h.mem]
theorem Advance.mbc2Ram {s t : State} (h : Advance s t) : t.mem.mbc2Ram = s.mem.mbc2Ram := by rw [h.mem]

theorem Advance.vbank {s t : State} (h : Advance s t) : vbank t = vbank s := by
  have hp : t.ppu.vbk = s.ppu.vbk := by rw [h.ppu]
  unfold Machine.vbank
  rw [h.gbcMode, hp]

theorem Advance.wbank {s t : State} (h : Advance s t) : wbank t = wbank s := by
  unfold Machine.wbank
  rw [h.gbcMode, h.svbk]

/-- Nothing on the address map moves in a device step. -/
theorem Advance.locate {s t : State} (h : Advance s t) (a : Word) : locate t a = locate s a := by
  unfold Machine.locate wramIndex
  rw [h.vbank, h.wbank]

theorem Advance.romIndex {s t : State} (h : Advance s t) (n : Nat) : t.cart.romIndex n = s.cart.romIndex n := by
  rw [h.cart]
  rfl

theorem Advance.extLocate {s t : State} (h : Advance s t) (off : Nat) :
    t.cart.extLocate off = s.cart.extLocate off := by
  rw [h.cart]
  rfl

@[simp] theorem cycle_locate (s : State) (a : Word) : locate (cycle s) a = locate s a :=
  (cycle_advance s).locate a

end Sys2Proof.Machine
end

