-- ==== Sys2Proof/Laws/Bus.lean ====
section
/-! SUPPORT. The address map by range (20_memory.md R153): what stands at an address, one lemma a row, and the bus accesses of the
I/O page. -/

namespace Sys2Proof.Machine

theorem locate_rom (s : State) {a : Word} (h : a.toNat < 0x8000) : locate s a = .rom a.toNat := by
  unfold locate
  exact if_pos h

theorem locate_vram (s : State) {a : Word} (h : 0x8000 ≤ a.toNat) (k : a.toNat < 0xA000) :
    locate s a = .vram (vbank s * 0x2000 + (a.toNat - 0x8000)) := by
  simp (disch := omega) only [locate, if_pos, if_neg]

theorem locate_ext (s : State) {a : Word} (h : 0xA000 ≤ a.toNat) (k : a.toNat < 0xC000) :
    locate s a = .ext (a.toNat - 0xA000) := by
  simp (disch := omega) only [locate, if_pos, if_neg]

theorem locate_wram (s : State) {a : Word} (h : 0xC000 ≤ a.toNat) (k : a.toNat < 0xE000) :
    locate s a = .wram (wramIndex s (a.toNat - 0xC000)) := by
  simp (disch := omega) only [locate, if_pos, if_neg]

theorem locate_echo (s : State) {a : Word} (h : 0xE000 ≤ a.toNat) (k : a.toNat < 0xFE00) :
    locate s a = .wram (wramIndex s (a.toNat - 0xE000)) := by
  simp (disch := omega) only [locate, if_pos, if_neg]

theorem locate_oam (s : State) {a : Word} (h : 0xFE00 ≤ a.toNat) (k : a.toNat < 0xFEA0) :
    locate s a = .oam (a.toNat - 0xFE00) := by
  simp (disch := omega) only [locate, if_pos, if_neg]

theorem locate_unmapped (s : State) {a : Word} (h : 0xFEA0 ≤ a.toNat) (k : a.toNat < 0xFF00) :
    locate s a = .unmapped := by
  simp (disch := omega) only [locate, if_pos, if_neg]

theorem locate_io (s : State) {a : Word} (h : 0xFF00 ≤ a.toNat) (k : a.toNat < 0xFF80) :
    locate s a = .io (a.toNat - 0xFF00) := by
  simp (disch := omega) only [locate, if_pos, if_neg]

theorem locate_zp (s : State) {a : Word} (h : 0xFF80 ≤ a.toNat) (k : a.toNat < 0xFFFF) :
    locate s a = .zp (a.toNat - 0xFF80) := by
  simp (disch := omega) only [locate, if_pos, if_neg]

theorem locate_ie (s : State) {a : Word} (h : a.toNat = 0xFFFF) : locate s a = .ie := by
  simp (disch := omega) only [locate, if_neg]

/-- A bus read of the I/O page is the register read at that offset. -/
theorem busRead_io (s : State) {a : Word} {off : Nat} (h : a.toNat = 0xFF00 + off) (k : off < 0x80) :
    busRead s a = ioRead s off := by
  unfold busRead
  rw [locate_io s (by omega) (by omega), show a.toNat - 0xFF00 = off by omega]

/-- A bus write to the I/O page is the register write at that offset. -/
theorem busWrite_io (s : State) {a : Word} {off : Nat} (v : Byte) (h : a.toNat = 0xFF00 + off) (k : off < 0x80) :
    busWrite s a v = ioWrite s off v := by
  unfold busWrite
  rw [locate_io s (by omega) (by omega), show a.toNat - 0xFF00 = off by omega]

end Sys2Proof.Machine
end

