-- ==== Sys2Proof/Laws/Memory.lean ====
section
/-! SUPPORT. One memory: what a read gives after a write, and that every operation keeps the canonical form and the bound. -/

namespace Sys2Proof.Machine

@[simp] theorem Memory.read_nil (a : Nat) : Memory.read [] a = Memory.unlisted := rfl

theorem Memory.read_cons (k : Nat) (v : Byte) (rest : Memory) (a : Nat) :
    Memory.read ((k, v) :: rest) a = if k = a then v else Memory.read rest a := rfl

/-- An address that no entry lists reads as unlisted. -/
theorem Memory.read_of_not_listed {m : Memory} {a : Nat} (h : ∀ cell ∈ m, cell.1 ≠ a) :
    m.read a = Memory.unlisted := by
  induction m with
  | nil => rfl
  | cons x m ih =>
    obtain ⟨k, v⟩ := x
    rw [Memory.read_cons, if_neg (h (k, v) (by simp)), ih fun c hc => h c (by simp [hc])]

/-! ## Reads after writes -/

theorem Memory.read_insert (m : Memory) (a b : Nat) (v : Byte) :
    (m.insert a v).read b = if a = b then v else m.read b := by
  induction m with
  | nil => simp [Memory.insert, Memory.read_cons]
  | cons x m ih =>
    obtain ⟨k, w⟩ := x
    simp only [Memory.insert]
    split
    · simp only [Memory.read_cons]
    · split
      · next hk => subst hk; simp only [Memory.read_cons]; split <;> rfl
      · next hk =>
        simp only [Memory.read_cons, ih]
        split
        · next hb => rw [if_neg (by omega)]
        · rfl

theorem Memory.read_erase (m : Memory) (a b : Nat) :
    (m.erase a).read b = if a = b then Memory.unlisted else m.read b := by
  induction m with
  | nil => simp [Memory.erase]
  | cons x m ih =>
    obtain ⟨k, w⟩ := x
    simp only [Memory.erase]
    split
    · next hk => subst hk; rw [ih, Memory.read_cons]; split <;> rfl
    · next hk =>
      simp only [Memory.read_cons, ih]
      split
      · next hb => rw [if_neg (by omega)]
      · rfl

/-- A read after a write: the value written at that address, what was there before at every other. -/
theorem Memory.read_write (m : Memory) (a b : Nat) (v : Byte) :
    (m.write a v).read b = if a = b then v else m.read b := by
  unfold Memory.write
  split
  · next h => rw [Memory.read_erase, h]
  · exact Memory.read_insert m a b v

@[simp] theorem Memory.read_write_same (m : Memory) (a : Nat) (v : Byte) : (m.write a v).read a = v := by
  rw [Memory.read_write, if_pos rfl]

theorem Memory.read_write_other (m : Memory) {a b : Nat} (v : Byte) (h : a ≠ b) :
    (m.write a v).read b = m.read b := by
  rw [Memory.read_write, if_neg h]

/-! ## Membership -/

theorem Memory.mem_insert {m : Memory} {a : Nat} {v : Byte} {c : Host.Cell} (h : c ∈ m.insert a v) :
    c = (a, v) ∨ c ∈ m := by
  induction m with
  | nil => simpa [Memory.insert] using h
  | cons x m ih =>
    obtain ⟨k, w⟩ := x
    simp only [Memory.insert] at h
    split at h
    · simpa using h
    · split at h
      · rcases List.mem_cons.1 h with h | h
        · exact .inl h
        · exact .inr (List.mem_cons_of_mem _ h)
      · rcases List.mem_cons.1 h with h | h
        · exact .inr (by rw [h]; exact List.mem_cons_self)
        · exact (ih h).imp id (List.mem_cons_of_mem _)

theorem Memory.mem_erase {m : Memory} {a : Nat} {c : Host.Cell} (h : c ∈ m.erase a) : c ∈ m := by
  induction m with
  | nil => exact h
  | cons x m ih =>
    obtain ⟨k, w⟩ := x
    simp only [Memory.erase] at h
    split at h
    · exact List.mem_cons_of_mem _ (ih h)
    · rcases List.mem_cons.1 h with h | h
      · rw [h]; exact List.mem_cons_self
      · exact List.mem_cons_of_mem _ (ih h)

/-- A cell of a written memory is the written one or an old one. -/
theorem Memory.mem_write {m : Memory} {a : Nat} {v : Byte} {c : Host.Cell} (h : c ∈ m.write a v) :
    c = (a, v) ∨ c ∈ m := by
  unfold Memory.write at h
  split at h
  · exact .inr (Memory.mem_erase h)
  · exact Memory.mem_insert h

/-! ## Bounds -/

theorem Memory.below_write {n : Nat} {m : Memory} {a : Nat} {v : Byte} (h : Memory.below n m) (ha : a < n) :
    Memory.below n (m.write a v) := by
  intro c hc
  rcases Memory.mem_write hc with rfl | hc
  · exact ha
  · exact h c hc

/-! ## The canonical form -/

theorem Memory.wf_insert {m : Memory} {a : Nat} {v : Byte} (h : m.wf) (hv : v ≠ Memory.unlisted) :
    (m.insert a v).wf := by
  refine ⟨?_, fun c hc => ?_⟩
  · have hp := h.1
    clear h
    induction m with
    | nil => simp [Memory.insert]
    | cons x m ih =>
      obtain ⟨k, w⟩ := x
      obtain ⟨hx, hm⟩ := List.pairwise_cons.1 hp
      simp only [Memory.insert]
      split
      · next hak =>
        refine List.pairwise_cons.2 ⟨fun c hc => ?_, hp⟩
        rcases List.mem_cons.1 hc with rfl | hc
        · exact hak
        · exact Nat.lt_trans hak (hx c hc)
      · split
        · next hka => subst hka; exact List.pairwise_cons.2 ⟨hx, hm⟩
        · refine List.pairwise_cons.2 ⟨fun c hc => ?_, ih hm⟩
          rcases Memory.mem_insert hc with rfl | hc
          · show k < a; omega
          · exact hx c hc
  · rcases Memory.mem_insert hc with rfl | hc
    · exact hv
    · exact h.2 c hc

theorem Memory.wf_erase {m : Memory} {a : Nat} (h : m.wf) : (m.erase a).wf := by
  refine ⟨?_, fun c hc => h.2 c (Memory.mem_erase hc)⟩
  have hp := h.1
  clear h
  induction m with
  | nil => exact hp
  | cons x m ih =>
    obtain ⟨k, w⟩ := x
    obtain ⟨hx, hm⟩ := List.pairwise_cons.1 hp
    simp only [Memory.erase]
    split
    · exact ih hm
    · exact List.pairwise_cons.2 ⟨fun c hc => hx c (Memory.mem_erase hc), ih hm⟩

/-- A write keeps the canonical form. -/
theorem Memory.wf_write {m : Memory} {a : Nat} {v : Byte} (h : m.wf) : (m.write a v).wf := by
  unfold Memory.write
  split
  · exact Memory.wf_erase h
  · next hv => exact Memory.wf_insert h hv

theorem Memory.wf_nil : Memory.wf [] := by simp [Memory.wf]

/-- In canonical form, equal reads are equal memories. -/
theorem Memory.ext_of_wf {m n : Memory} (hm : m.wf) (hn : n.wf) (h : ∀ a, m.read a = n.read a) : m = n := by
  induction m generalizing n with
  | nil =>
    cases n with
    | nil => rfl
    | cons y n =>
      have := h y.1
      simp only [Memory.read_nil] at this
      obtain ⟨k, w⟩ := y
      rw [Memory.read_cons, if_pos rfl] at this
      exact absurd this.symm (hn.2 (k, w) (by simp))
  | cons x m ih =>
    obtain ⟨k, v⟩ := x
    have hv : v ≠ Memory.unlisted := hm.2 (k, v) (by simp)
    obtain ⟨hx, hm1⟩ := List.pairwise_cons.1 hm.1
    cases n with
    | nil =>
      have := h k
      rw [Memory.read_cons, if_pos rfl] at this
      exact absurd this hv
    | cons y n =>
      obtain ⟨j, w⟩ := y
      have hw : w ≠ Memory.unlisted := hn.2 (j, w) (by simp)
      obtain ⟨hy, hn1⟩ := List.pairwise_cons.1 hn.1
      have hmk : ∀ b, b ≤ k → Memory.read m b = Memory.unlisted := fun b hb =>
        Memory.read_of_not_listed fun c hc => by have := hx c hc; simp only at this; omega
      have hnj : ∀ b, b ≤ j → Memory.read n b = Memory.unlisted := fun b hb =>
        Memory.read_of_not_listed fun c hc => by have := hy c hc; simp only at this; omega
      have hk := h k
      have hj := h j
      simp only [Memory.read_cons, if_true] at hk hj
      rcases Nat.lt_trichotomy k j with hlt | heq | hlt
      · rw [if_neg (by omega), hnj k (by omega)] at hk; exact absurd hk hv
      · subst heq
        rw [if_pos rfl] at hk
        subst hk
        congr 1
        refine ih ⟨hm1, fun c hc => hm.2 c (by simp [hc])⟩ ⟨hn1, fun c hc => hn.2 c (by simp [hc])⟩ fun b => ?_
        by_cases hb : k = b
        · subst hb; rw [hmk k (by omega), hnj k (by omega)]
        · have := h b
          simpa only [Memory.read_cons, if_neg hb] using this
      · rw [if_neg (by omega), hmk j (by omega)] at hj; exact absurd hj.symm hw

/-! ## A memory from its bytes -/

theorem Memory.mem_ofBytes {start : Nat} {bytes : List Byte} {c : Host.Cell} (h : c ∈ Memory.ofBytes start bytes) :
    start ≤ c.1 ∧ c.1 < start + bytes.length ∧ c.2 ≠ Memory.unlisted := by
  induction bytes generalizing start with
  | nil => simp [Memory.ofBytes] at h
  | cons v rest ih =>
    simp only [Memory.ofBytes] at h
    simp only [List.length_cons]
    split at h
    · obtain ⟨h1, h2, h3⟩ := ih h
      exact ⟨by omega, by omega, h3⟩
    · next hv =>
      rcases List.mem_cons.1 h with rfl | h
      · exact ⟨Nat.le_refl _, by simp only; omega, hv⟩
      · obtain ⟨h1, h2, h3⟩ := ih h
        exact ⟨by omega, by omega, h3⟩

/-- A memory made from bytes is canonical. -/
theorem Memory.wf_ofBytes (start : Nat) (bytes : List Byte) : (Memory.ofBytes start bytes).wf := by
  refine ⟨?_, fun c hc => (Memory.mem_ofBytes hc).2.2⟩
  induction bytes generalizing start with
  | nil => simp [Memory.ofBytes]
  | cons v rest ih =>
    simp only [Memory.ofBytes]
    split
    · exact ih _
    · exact List.pairwise_cons.2 ⟨fun c hc => (Memory.mem_ofBytes hc).1, ih _⟩

/-- It reads as those bytes. -/
theorem Memory.read_ofBytes (start : Nat) (bytes : List Byte) (i : Nat) :
    (Memory.ofBytes start bytes).read (start + i) = bytes.getD i Memory.unlisted := by
  induction bytes generalizing start i with
  | nil => simp [Memory.ofBytes]
  | cons v rest ih =>
    simp only [Memory.ofBytes]
    cases i with
    | zero =>
      split
      · next hv =>
        rw [Memory.read_of_not_listed fun c hc => by have := (Memory.mem_ofBytes hc).1; omega]
        simp [hv]
      · simp [Memory.read_cons]
    | succ i =>
      have h := ih (start + 1) i
      rw [show start + 1 + i = start + (i + 1) by omega] at h
      split
      · simpa using h
      · rw [Memory.read_cons, if_neg (by omega)]; simpa using h

end Sys2Proof.Machine
end

