-- ==== Sys2Proof/Laws/Progress.lean ====
section
/-! SUPPORT. What no slot and no bus write changes, or changes one way only: the mode, the ROM, FAULT, what the header fixed,
the host's inputs; T, the output trace and the wall readings only go forward. -/

namespace Sys2Proof.Machine

/-- `t` comes from `s` by slots and bus writes. -/
structure Progress (s t : State) : Prop where
  fault : t.fault = s.fault
  gbcMode : t.gbcMode = s.gbcMode
  rom : t.mem.rom = s.mem.rom
  mapper : t.cart.mapper = s.cart.mapper
  battery : t.cart.battery = s.cart.battery
  hasRtc : t.cart.hasRtc = s.cart.hasRtc
  romBanks : t.cart.romBanks = s.cart.romBanks
  ramSize : t.cart.ramSize = s.cart.ramSize
  inputs : t.io.inputs = s.io.inputs
  pressed : t.io.pressed = s.io.pressed
  time : ∃ k, t.t = s.t + 4 * k
  trace : s.io.trace <:+ t.io.trace
  wall : s.io.wallLast ≤ t.io.wallLast

theorem Progress.refl (s : State) : Progress s s where
  fault := rfl
  gbcMode := rfl
  rom := rfl
  mapper := rfl
  battery := rfl
  hasRtc := rfl
  romBanks := rfl
  ramSize := rfl
  inputs := rfl
  pressed := rfl
  time := ⟨0, rfl⟩
  trace := List.suffix_rfl
  wall := Nat.le_refl _

theorem Progress.trans {s t u : State} (h : Progress s t) (k : Progress t u) : Progress s u where
  fault := k.fault.trans h.fault
  gbcMode := k.gbcMode.trans h.gbcMode
  rom := k.rom.trans h.rom
  mapper := k.mapper.trans h.mapper
  battery := k.battery.trans h.battery
  hasRtc := k.hasRtc.trans h.hasRtc
  romBanks := k.romBanks.trans h.romBanks
  ramSize := k.ramSize.trans h.ramSize
  inputs := k.inputs.trans h.inputs
  pressed := k.pressed.trans h.pressed
  time := by
    obtain ⟨a, ha⟩ := h.time
    obtain ⟨b, hb⟩ := k.time
    exact ⟨a + b, by omega⟩
  trace := h.trace.trans k.trace
  wall := Nat.le_trans h.wall k.wall

/-- A device step is progress. -/
theorem Advance.progress {s t : State} (h : Advance s t) : Progress s t where
  fault := h.fault
  gbcMode := h.gbcMode
  rom := h.rom
  mapper := by rw [h.cart]
  battery := by rw [h.cart]
  hasRtc := by rw [h.cart]
  romBanks := by rw [h.cart]
  ramSize := by rw [h.cart]
  inputs := by rw [h.io]
  pressed := by rw [h.io]
  time := ⟨0, h.time⟩
  trace := h.trace
  wall := by rw [h.io]

/-- A slot is progress. -/
theorem cycle_progress (s : State) : Progress s (cycle s) :=
  Progress.trans (t := { s with t := s.t + 4 }) { Progress.refl s with time := ⟨1, rfl⟩ } (cycle_advance s).progress

theorem withCpu_progress (s : State) (c : Cpu) : Progress s (s.withCpu c) := { Progress.refl s with fault := rfl }

theorem Progress.ite {s t u : State} {p : Prop} [Decidable p] (h : Progress s t) (k : Progress s u) :
    Progress s (if p then t else u) := by
  split
  · exact h
  · exact k

theorem Progress.repeatN {f : State → State} (hf : ∀ s, Progress s (f s)) (n : Nat) (s : State) :
    Progress s (repeatN f n s) := by
  induction n generalizing s with
  | zero => exact Progress.refl s
  | succ n ih => exact (hf s).trans (ih (f s))

/-! ## The bus write -/

theorem setRtc_progress (s : State) (r : Rtc) : Progress s (s.setRtc r) := { Progress.refl s with fault := rfl }

theorem readWall_progress (s : State) : Progress s (readWall s).2 := by
  unfold readWall
  split
  · exact { Progress.refl s with fault := rfl, wall := Nat.le_max_right _ _ }
  · exact { Progress.refl s with fault := rfl, wall := Nat.le_add_right _ _ }

theorem rtcNow_progress (s : State) : Progress s (rtcNow s).2 := by
  unfold rtcNow
  split
  · exact Progress.refl s
  · exact readWall_progress s

theorem rtcLatch_progress (s : State) : Progress s (rtcLatch s) := by
  unfold rtcLatch
  exact Progress.ite ((rtcNow_progress s).trans (setRtc_progress _ _)) (Progress.refl s)

theorem rtcWrite_progress (s : State) (v : Byte) : Progress s (rtcWrite s v) := by
  unfold rtcWrite
  exact Progress.ite ((readWall_progress s).trans (setRtc_progress _ _))
    (Progress.ite (setRtc_progress s _) ((readWall_progress s).trans (setRtc_progress _ _)))

theorem markDirty_progress (s : State) : Progress s (markDirty s) := { Progress.refl s with fault := rfl }

theorem extWrite_progress (s : State) (off : Nat) (v : Byte) : Progress s (extWrite s off v) := by
  unfold extWrite
  refine Progress.ite ?_ (Progress.refl s)
  split
  · exact { Progress.refl s with fault := rfl }
  · exact (rtcWrite_progress s v).trans (markDirty_progress _)
  · exact { Progress.refl s with fault := rfl }
  · exact Progress.refl s

theorem mapperWrite_progress (s : State) (n : Nat) (v : Byte) : Progress s (mapperWrite s n v) := by
  unfold mapperWrite Cart.writeMbc1 Cart.writeMbc2 Cart.writeMbc3 Cart.writeMbc5
  split
  · exact Progress.refl s
  · repeat' split
    all_goals exact { Progress.refl s with fault := rfl }
  · repeat' split
    all_goals exact { Progress.refl s with fault := rfl }
  · extract_lets s1
    have h1 : Progress s s1 := Progress.ite (rtcLatch_progress s) (Progress.refl s)
    refine h1.trans ?_
    repeat' split
    all_goals exact { Progress.refl s1 with fault := rfl }
  · repeat' split
    all_goals exact { Progress.refl s with fault := rfl }

theorem blankLines_progress (gbc : Bool) (ly n : Nat) (s : State) : Progress s (blankLines gbc ly n s) := by
  induction n generalizing ly s with
  | zero => exact Progress.refl s
  | succ n ih => exact (emit_advance _ s).progress.trans (ih (ly + 1) _)

theorem withPpu_progress (s : State) (p : Ppu) : Progress s { s with ppu := p } := { Progress.refl s with fault := rfl }

theorem lcdcWrite_progress (s : State) (v : Byte) : Progress s (lcdcWrite s v) := by
  unfold lcdcWrite
  exact Progress.ite ((withPpu_progress s _).trans ((blankLines_progress _ _ _ _).trans (withPpu_progress _ _)))
    (withPpu_progress s _)

theorem hdmaBulk_progress (s : State) : Progress s (hdmaBulk s) := by
  unfold hdmaBulk
  exact (Progress.repeatN (fun s => (hdmaCopyByte_advance s).progress) _ s).trans
    ((withHdma_advance _ _).progress.trans (Progress.repeatN cycle_progress _ _))

theorem hdma5Write_progress (s : State) (v : Byte) : Progress s (hdma5Write s v) := by
  unfold hdma5Write
  exact Progress.ite (withHdma_advance s _).progress
    (Progress.ite (withHdma_advance s _).progress ((withHdma_advance s _).progress.trans (hdmaBulk_progress _)))

theorem ioWriteGbc_progress (s : State) (off : Nat) (v : Byte) : Progress s (ioWriteGbc s off v) := by
  unfold ioWriteGbc
  split
  case h_6 => exact hdma5Write_progress s v
  all_goals exact { Progress.refl s with fault := rfl }

theorem dmaWrite_progress (s : State) (v : Byte) : Progress s (dmaWrite s v) := by
  unfold dmaWrite
  exact Progress.ite { Progress.refl s with fault := rfl } { Progress.refl s with fault := rfl }

theorem ioWrite_progress (s : State) (off : Nat) (v : Byte) : Progress s (ioWrite s off v) := by
  unfold ioWrite
  refine Progress.ite { Progress.refl s with fault := rfl } (Progress.ite { Progress.refl s with fault := rfl } ?_)
  split
  case h_7 => exact lcdcWrite_progress s v
  case h_12 => exact dmaWrite_progress s v
  case h_18 => exact Progress.ite (ioWriteGbc_progress s _ v) (Progress.refl s)
  all_goals exact { Progress.refl s with fault := rfl }

/-- A bus write is progress. -/
theorem busWrite_progress (s : State) (a : Word) (v : Byte) : Progress s (busWrite s a v) := by
  unfold busWrite
  split
  case h_1 => exact mapperWrite_progress s _ v
  case h_3 => exact extWrite_progress s _ v
  case h_7 => exact ioWrite_progress s _ v
  all_goals exact { Progress.refl s with fault := rfl }

@[simp] theorem busWrite_fault (s : State) (a : Word) (v : Byte) : (busWrite s a v).fault = s.fault :=
  (busWrite_progress s a v).fault

/-! ## The primitives -/

theorem memWrite_progress (a : Word) (v : Byte) (s : State) : Progress s (memWrite a v s) :=
  (cycle_progress s).trans (busWrite_progress _ _ _)

theorem push16_progress (v : Word) (s : State) : Progress s (push16 v s) := by
  rw [push16_eq]
  exact (((cycle_progress s).trans (busWrite_progress _ _ _)).trans
    ((cycle_progress _).trans (busWrite_progress _ _ _))).trans (withCpu_progress _ _)

theorem pop16_progress (s : State) : Progress s (pop16 s).2 := by
  rw [pop16_eq]
  exact ((cycle_progress s).trans (cycle_progress _)).trans (withCpu_progress _ _)

theorem fetch8_progress (s : State) : Progress s (fetch8 s).2 := by
  rw [fetch8_eq]
  exact (cycle_progress s).trans (withCpu_progress _ _)

end Sys2Proof.Machine
end

