-- ==== Sys2Proof/Laws/Cells.lean ====
section
/-! SUPPORT. A bus read by the memory cell behind the address: what it gives where there is one, what it depends on where there is
none, and what a slot leaves of it. -/

namespace Sys2Proof.Machine

/-- Where a memory cell stands behind an address, the bus reads the cell. -/
theorem busRead_of_memCell {s : State} {a : Word} {c : MemCell} (h : memCell s a = some c) :
    busRead s a = c.value s := by
  unfold memCell at h
  unfold busRead
  cases hl : locate s a with
  | ext off =>
    simp only [hl] at h ⊢
    unfold extRead
    cases he : s.cart.extLocate off <;> simp only [he] at h <;> cases h <;> rfl
  | _ =>
    simp only [hl] at h ⊢
    cases h
    try rfl

/-- An address with no memory cell behind it reads the same in two machines that differ in memory cells alone. -/
theorem busRead_of_no_cell {s t : State} {a : Word} (h : memCell s a = none) (hl : locate t a = locate s a)
    (hr : t.mem.rom = s.mem.rom) (hx : ∀ off, t.cart.romIndex off = s.cart.romIndex off)
    (he : ∀ off, t.cart.extLocate off = s.cart.extLocate off) (hrtc : t.cart.rtc = s.cart.rtc)
    (hsel : t.cart.ramSel = s.cart.ramSel) (hio : ∀ off, ioRead t off = ioRead s off) : busRead t a = busRead s a := by
  unfold memCell at h
  unfold busRead
  rw [hl]
  cases hs : locate s a with
  | rom n => simp only [hr, hx]
  | ext off =>
    simp only [hs] at h ⊢
    unfold extRead
    rw [he]
    cases he2 : s.cart.extLocate off <;> simp only [he2, reduceCtorEq] at h ⊢
    rw [hrtc, hsel]
  | io off => exact hio off
  | unmapped => rfl
  | _ =>
    simp only [hs] at h
    cases h

/-- A device step leaves the cell behind an address where it is. -/
theorem Advance.memCell {s t : State} (h : Advance s t) (a : Word) : memCell t a = memCell s a := by
  unfold Machine.memCell
  rw [h.locate]
  simp only [h.extLocate]

/-- A device step leaves the value of a cell that no device writes. -/
theorem Advance.value {s t : State} (h : Advance s t) {c : MemCell} (hc : c.quiet = true) : c.value t = c.value s := by
  cases c with
  | vram i => cases hc
  | oam i => cases hc
  | wram i => exact congrArg (Memory.read · i) h.wram
  | zp i => exact congrArg (Memory.read · i) h.zp
  | cartRam i => exact congrArg (Memory.read · i) h.cartRam
  | mbc2Ram i => exact congrArg (fun m => 0xF0#8 ||| Memory.read m i) h.mbc2Ram
  | ie => exact h.enable

@[simp] theorem cycle_memCell (s : State) (a : Word) : memCell (cycle s) a = memCell s a :=
  (cycle_advance s).memCell a

@[simp] theorem withCpu_memCell (s : State) (c : Cpu) (a : Word) : memCell (s.withCpu c) a = memCell s a := rfl

/-- A slot leaves the value of a cell that no device writes. -/
theorem cycle_value (s : State) {c : MemCell} (hc : c.quiet = true) : c.value (cycle s) = c.value s := by
  rw [(cycle_advance s).value hc]
  cases c <;> rfl

/-- Whether a store may change a cell does not depend on the devices. -/
@[simp] theorem cycle_writable (s : State) (c : MemCell) : c.writable (cycle s).cart = c.writable s.cart := by
  cases c <;> first | rfl | (show (cycle s).cart.ramEnable = s.cart.ramEnable; rw [(cycle_advance s).cart])

end Sys2Proof.Machine
end

