-- ==== Sys2Proof/Laws/Invariant.lean ====
section
/-! SUPPORT. A slot, a bus write and a register write keep `State.Inv`. -/

namespace Sys2Proof.Machine

/-! ## What does not touch the invariant's fields -/

theorem State.Inv.withCpu {s : State} (h : s.Inv) (c : Cpu) : (s.withCpu c).Inv := { h with mem := h.mem }

theorem State.Inv.emit {s : State} (h : s.Inv) (o : Output) : (emit o s).Inv := { h with mem := h.mem }

theorem State.Inv.requestInterrupt {s : State} (h : s.Inv) (k : Nat) : (requestInterrupt k s).Inv :=
  { h with mem := h.mem }

theorem State.Inv.requestStatIf {s : State} (h : s.Inv) (b : Bool) : (requestStatIf b s).Inv := by
  cases b
  · exact h
  · exact h.requestInterrupt 1

theorem State.Inv.ite {s t : State} {p : Prop} [Decidable p] (h : p → s.Inv) (k : ¬p → t.Inv) :
    (if p then s else t).Inv := by
  split
  · next hp => exact h hp
  · next hp => exact k hp

theorem State.Inv.repeatN {f : State → State} (hf : ∀ s : State, s.Inv → (f s).Inv) (n : Nat) {s : State}
    (h : s.Inv) : (repeatN f n s).Inv := by
  induction n generalizing s with
  | zero => exact h
  | succ n ih => exact ih (hf s h)

/-- A write inside a memory's size keeps its form and its size. -/
theorem Memory.inv_write {n : Nat} {m : Memory} (h : m.wf ∧ Memory.below n m) {a : Nat} (ha : a < n) (v : Byte) :
    (m.write a v).wf ∧ Memory.below n (m.write a v) :=
  ⟨Memory.wf_write h.1, Memory.below_write h.2 ha⟩

/-! ## Bounds of the address map -/

theorem vbank_lt (s : State) : vbank s < 2 := by
  have := s.ppu.vbk.isLt
  unfold vbank
  split <;> omega

theorem wbank_lt (s : State) : wbank s < 8 := by
  have := s.svbk.isLt
  unfold wbank
  split
  · split <;> omega
  · omega

/-- The size of what stands at a place. -/
def Loc.InRange : Loc → Prop
  | .rom n => n < 0x8000
  | .vram i => i < 0x4000
  | .ext off => off < 0x2000
  | .wram i => i < 0x8000
  | .oam i => i < oamSize
  | .unmapped => True
  | .io off => off < 0x80
  | .zp i => i < 127
  | .ie => True

/-- Every place of the address map is inside its memory. -/
theorem locate_inRange (s : State) (a : Word) : (locate s a).InRange := by
  have ha := a.isLt
  have hv := vbank_lt s
  have hw := wbank_lt s
  unfold locate wramIndex
  dsimp only
  split_ifs <;> simp only [Loc.InRange, oamSize] <;> omega

/-! ## The devices -/

theorem State.Inv.withHdma {s : State} (h : s.Inv) {d : Hdma} (hd : d.Inv) : ({ s with hdma := d } : State).Inv :=
  { h with mem := h.mem, hdma := hd }

theorem State.Inv.withPpu {s : State} (h : s.Inv) {p : Ppu} (hp : p.Inv) : ({ s with ppu := p } : State).Inv :=
  { h with mem := h.mem, ppu := hp }

theorem State.Inv.withVram {s : State} (h : s.Inv) {i : Nat} (hi : i < 0x4000) (v : Byte) :
    ({ s with mem := { s.mem with vram := s.mem.vram.write i v } } : State).Inv :=
  { h with mem := { h.mem with vram := Memory.inv_write h.mem.vram hi v } }

theorem State.Inv.withOam {s : State} (h : s.Inv) {i : Nat} (hi : i < oamSize) (v : Byte) :
    ({ s with mem := { s.mem with oam := s.mem.oam.write i v } } : State).Inv :=
  { h with mem := { h.mem with oam := Memory.inv_write h.mem.oam hi v } }

theorem State.Inv.hdmaCopyByte {s : State} (h : s.Inv) : (hdmaCopyByte s).Inv := by
  have hv := vbank_lt s
  have hd := s.hdma.dst.isLt
  exact (h.withVram (i := vbank s * 0x2000 + s.hdma.dst.toNat) (by omega) _).withHdma
    ⟨h.hdma.remaining, h.hdma.left⟩

theorem State.Inv.hdmaBlock {s : State} (h : s.Inv) : (hdmaBlock s).Inv := by
  unfold Machine.hdmaBlock
  have h1 := h.repeatN (f := Machine.hdmaCopyByte) (fun _ => State.Inv.hdmaCopyByte) 16
  generalize Machine.repeatN Machine.hdmaCopyByte 16 s = u at h1
  have hr := h1.hdma.remaining
  exact State.Inv.ite (fun _ => h1.withHdma ⟨Nat.zero_le _, by simp⟩)
    (fun hn => h1.withHdma ⟨by simp only; omega, fun _ => by simp only; omega⟩)

theorem State.Inv.withDma {s : State} (h : s.Inv) {d : OamDma} (hd : d.Inv) : ({ s with dma := d } : State).Inv :=
  { h with mem := h.mem, dma := hd }

theorem State.Inv.dmaCycle {s : State} (h : s.Inv) : (dmaCycle s).Inv := by
  unfold Machine.dmaCycle
  have hp := h.dma.position
  have hq := h.dma.phase
  refine State.Inv.ite (fun hrun => State.Inv.ite (fun _ => ?_) fun hph => ?_) fun _ => h
  · have hlt := h.dma.left hrun
    refine (h.withOam hlt _).withDma ⟨hlt, (by decide : 0 < 4), fun hr => ?_⟩
    simp only [bne_iff_ne, ne_eq, oamSize] at hr hlt ⊢
    omega
  · exact h.withDma ⟨hp, by simp only; omega, fun hr => h.dma.left hr⟩

theorem State.Inv.withTimer {s : State} (h : s.Inv) (tm : Timer) : ({ s with timer := tm } : State).Inv :=
  { h with mem := h.mem }

theorem State.Inv.timerCycle {s : State} (h : s.Inv) : (timerCycle s).Inv := by
  unfold Machine.timerCycle timerTick
  exact State.Inv.ite
    (fun _ => State.Inv.ite (fun _ => ((h.withTimer _).withTimer _).requestInterrupt 2)
      fun _ => (h.withTimer _).withTimer _)
    fun _ => h.withTimer _

theorem State.Inv.withSpu {s : State} (h : s.Inv) {p : Spu} (hp : p.samplePhase < frameCycles) :
    ({ s with spu := p } : State).Inv :=
  { h with mem := h.mem, samplePhase := hp }

theorem State.Inv.spuCycle {s : State} (h : s.Inv) : (spuCycle s).Inv := by
  unfold Machine.spuCycle
  extract_lets p
  have hp : p.samplePhase < frameCycles := by
    simp only [p]
    split
    · exact h.samplePhase
    · exact h.samplePhase
  exact State.Inv.ite (fun _ => (h.withSpu (by decide : 0 < frameCycles)).emit _) fun hn => h.withSpu (by simp only; omega)

theorem State.Inv.hblankEntry {s : State} (h : s.Inv) : (hblankEntry s).Inv := by
  unfold Machine.hblankEntry
  extract_lets s1 s2
  have h2 : s2.Inv := (h.emit _).requestStatIf _
  exact State.Inv.ite (fun _ => h2.hdmaBlock) fun _ => h2

theorem State.Inv.vblankEntry {s : State} (h : s.Inv) : (vblankEntry s).Inv :=
  ((h.requestInterrupt 0).requestStatIf _).emit _

/-- The line end's increment and wrap, then events that leave the counters. -/
theorem State.Inv.lineEnd {s : State} (h : s.Inv) : (lineEnd s).Inv := by
  unfold Machine.lineEnd
  extract_lets _ s1 s2 _ s3 s4
  have hl := h.ppu.ly
  have h3 : s3.Inv := by
    by_cases hw : s.ppu.ly + 1 = frameLines
    · have e2 : s2 = s1 := if_neg (by simp only [s1, hw]; decide)
      have e3 : s3 = { s2 with ppu := { s2.ppu with ly := 0 } } := if_pos (by rw [e2]; exact hw)
      have key : ∀ u : State, u = s1 → ({ u with ppu := { u.ppu with ly := 0 } } : State).Inv := by
        rintro u rfl
        exact h.withPpu ⟨(by decide : 0 < frameLines), (by decide : 0 < lineCycles)⟩
      rw [e3]
      exact key s2 e2
    · have h1 : s1.Inv := h.withPpu ⟨by simp only; omega, (by decide : 0 < lineCycles)⟩
      have h2 : s2.Inv := State.Inv.ite (fun _ => h1.vblankEntry) fun _ => h1
      exact State.Inv.ite (fun _ => h2.withPpu ⟨(by decide : 0 < frameLines), h2.ppu.linePosition⟩) fun _ => h2
  exact (h3.requestStatIf _).requestStatIf _

theorem State.Inv.ppuCycle {s : State} (h : s.Inv) : (ppuCycle s).Inv := by
  unfold Machine.ppuCycle
  refine State.Inv.ite (fun _ => ?_) fun _ => h
  extract_lets _ s1 s2
  have hl := h.ppu.ly
  have hp := h.ppu.linePosition
  by_cases hw : s.ppu.linePosition + 1 = lineCycles
  · have e2 : s2 = s1 := if_neg (by simp only [s1, hw]; exact fun hn => absurd hn.1 (by decide))
    rw [e2, if_pos (by simpa only [s1] using hw)]
    -- The line end zeroes line_position first, so it may start from the end of the line.
    exact (h : s.Inv).lineEnd
  · have h1 : s1.Inv := h.withPpu ⟨hl, by simp only; omega⟩
    have h2 : s2.Inv := State.Inv.ite (fun _ => h1.hblankEntry) fun _ => h1
    exact State.Inv.ite (fun _ => h2.lineEnd) fun _ => h2

theorem State.Inv.withDirty {s : State} (h : s.Inv) (b : Bool) (n : Nat) :
    ({ s with cart := { s.cart with dirty := b, flushAt := n } } : State).Inv :=
  { h with
    mem := { h.mem with rom := h.mem.rom, cartRam := h.mem.cartRam }
    cart := ⟨h.cart.banks, h.cart.romBank, h.cart.ramBank⟩ }

theorem State.Inv.cartCycle {s : State} (h : s.Inv) (now : Nat) : (cartCycle now s).Inv := by
  unfold Machine.cartCycle
  exact State.Inv.ite (fun _ => (h.withDirty false s.cart.flushAt).emit _) fun _ => h

/-- A slot keeps the invariant. -/
theorem State.Inv.cycle {s : State} (h : s.Inv) : (cycle s).Inv := by
  have h0 : ({ s with t := s.t + slotCycles } : State).Inv :=
    { h with mem := h.mem, time := by have := h.time; simp only [slotCycles]; omega }
  have h1 := h0.repeatN (f := Machine.ppuCycle) (fun _ => State.Inv.ppuCycle) slotCycles
  have h2 := h1.repeatN (f := Machine.dmaCycle) (fun _ => State.Inv.dmaCycle) slotCycles
  have h3 := h2.repeatN (f := Machine.timerCycle) (fun _ => State.Inv.timerCycle) slotCycles
  have h4 := h3.repeatN (f := Machine.spuCycle) (fun _ => State.Inv.spuCycle) slotCycles
  exact (((h4.cartCycle _).cartCycle _).cartCycle _).cartCycle _

/-! ## The bus write -/

theorem State.Inv.withCart {s : State} (h : s.Inv) {c : Cart} (hc : c.Inv) (hb : c.romBanks = s.cart.romBanks)
    (hr : c.ramSize = s.cart.ramSize) : ({ s with cart := c } : State).Inv :=
  { h with
    mem := { h.mem with rom := hb ▸ h.mem.rom, cartRam := hr ▸ h.mem.cartRam }
    cart := hc }

theorem State.Inv.setRtc {s : State} (h : s.Inv) (r : Rtc) : (s.setRtc r).Inv :=
  h.withCart ⟨h.cart.banks, h.cart.romBank, h.cart.ramBank⟩ rfl rfl

theorem State.Inv.withIo {s : State} (h : s.Inv) (io : HostIo) : ({ s with io := io } : State).Inv :=
  { h with mem := h.mem }

theorem State.Inv.readWall {s : State} (h : s.Inv) : (readWall s).2.Inv := by
  unfold Machine.readWall
  split
  · exact h.withIo _
  · exact h.withIo _

theorem State.Inv.rtcNow {s : State} (h : s.Inv) : (rtcNow s).2.Inv := by
  unfold Machine.rtcNow
  split
  · exact h
  · exact h.readWall

theorem State.Inv.rtcLatch {s : State} (h : s.Inv) : (rtcLatch s).Inv := by
  unfold Machine.rtcLatch
  exact State.Inv.ite (fun _ => h.rtcNow.setRtc _) fun _ => h

theorem State.Inv.rtcWrite {s : State} (h : s.Inv) (v : Byte) : (rtcWrite s v).Inv := by
  unfold Machine.rtcWrite
  exact State.Inv.ite (fun _ => h.readWall.setRtc _) fun _ =>
    State.Inv.ite (fun _ => h.setRtc _) fun _ => h.readWall.setRtc _

theorem State.Inv.withCartRam {s : State} (h : s.Inv) {i : Nat} (hi : i < s.cart.ramSize) (v : Byte) :
    ({ s with mem := { s.mem with cartRam := s.mem.cartRam.write i v } } : State).Inv :=
  { h with mem := { h.mem with cartRam := Memory.inv_write h.mem.cartRam hi v } }

theorem State.Inv.withMbc2Ram {s : State} (h : s.Inv) {i : Nat} (hi : i < 512) (v : Byte) :
    ({ s with mem := { s.mem with mbc2Ram := s.mem.mbc2Ram.write i (v &&& 0x0F) } } : State).Inv :=
  { h with
    mem :=
      { h.mem with
        mbc2Ram := Memory.inv_write h.mem.mbc2Ram hi _
        nibbles := fun c hc => by
          rcases Memory.mem_write hc with rfl | hc
          · have : (v &&& 0x0F).toNat ≤ 15 := by rw [BitVec.toNat_and]; exact Nat.and_le_right
            simp only
            omega
          · exact h.mem.nibbles c hc } }

/-- Where an offset of the external window is in a memory, it is inside it. -/
theorem extLocate_ram_lt {c : Cart} {off i : Nat} (h : c.extLocate off = .ram i) : i < c.ramSize := by
  unfold Cart.extLocate Cart.ramLocate at h
  split at h
  · exact absurd h (by simp)
  · split at h
    · split at h <;> exact absurd h (by simp)
    · split at h
      · exact absurd h (by simp)
      · split at h
        · exact absurd h (by simp)
        · injection h with h
          rw [← h]
          exact Nat.mod_lt _ (by omega)

theorem extLocate_mbc2Ram_lt {c : Cart} {off i : Nat} (h : c.extLocate off = .mbc2Ram i) : i < 512 := by
  unfold Cart.extLocate Cart.ramLocate at h
  split at h
  · injection h with h
    omega
  · split at h
    · split at h <;> exact absurd h (by simp)
    · split at h
      · exact absurd h (by simp)
      · split at h <;> exact absurd h (by simp)

theorem State.Inv.markDirty {s : State} (h : s.Inv) : (markDirty s).Inv := h.withDirty true _

theorem State.Inv.extWrite {s : State} (h : s.Inv) (off : Nat) (v : Byte) : (extWrite s off v).Inv := by
  unfold Machine.extWrite
  refine State.Inv.ite (fun _ => ?_) fun _ => h
  split
  · next hl => exact (h.withMbc2Ram (extLocate_mbc2Ram_lt hl) v).markDirty
  · exact (h.rtcWrite v).markDirty
  · next hl => exact (h.withCartRam (extLocate_ram_lt hl) v).markDirty
  · exact h

/-! ### Mapper commands -/

theorem and_lt {w k : Nat} (a b : BitVec w) (hb : b.toNat < 2 ^ k) : (a &&& b).toNat < 2 ^ k := by
  rw [BitVec.toNat_and]
  exact Nat.lt_of_le_of_lt Nat.and_le_right hb

theorem or_lt {w k : Nat} {a b : BitVec w} (ha : a.toNat < 2 ^ k) (hb : b.toNat < 2 ^ k) :
    (a ||| b).toNat < 2 ^ k := by
  rw [BitVec.toNat_or]
  exact Nat.or_lt_two_pow ha hb

theorem Cart.Inv.writeMbc1 {c : Cart} (h : c.Inv) (hm : c.mapper = .mbc1) (n : Nat) (v : Byte) :
    (c.writeMbc1 n v).Inv := by
  have hr := h.romBank
  have hb := h.ramBank
  rw [hm] at hr hb
  unfold Cart.writeMbc1
  split
  · exact ⟨h.banks, h.romBank, h.ramBank⟩
  · split
    · refine ⟨h.banks, ?_, h.ramBank⟩
      rw [show c.mapper.romBankLimit = 2 ^ 7 by rw [hm]; rfl]
      exact or_lt (and_lt _ _ (by decide)) (and_lt _ _ (by decide))
    · split
      · split
        · refine ⟨h.banks, h.romBank, ?_⟩
          rw [show c.mapper.ramBankLimit = 2 ^ 2 by rw [hm]; rfl]
          exact and_lt _ _ (by decide)
        · refine ⟨h.banks, ?_, h.ramBank⟩
          rw [show c.mapper.romBankLimit = 2 ^ 7 by rw [hm]; rfl]
          refine or_lt (and_lt _ _ (by decide)) ?_
          have hv := and_lt (k := 2) (v.zeroExtend 9) 3 (by decide)
          rw [BitVec.toNat_shiftLeft, Nat.shiftLeft_eq]
          omega
      · exact ⟨h.banks, h.romBank, h.ramBank⟩

theorem Cart.Inv.writeMbc2 {c : Cart} (h : c.Inv) (hm : c.mapper = .mbc2) (n : Nat) (v : Byte) :
    (c.writeMbc2 n v).Inv := by
  unfold Cart.writeMbc2
  split
  · split
    · refine ⟨h.banks, ?_, h.ramBank⟩
      rw [show c.mapper.romBankLimit = 2 ^ 4 by rw [hm]; rfl]
      exact and_lt _ _ (by decide)
    · exact ⟨h.banks, h.romBank, h.ramBank⟩
  · exact h

theorem Cart.Inv.writeMbc3 {c : Cart} (h : c.Inv) (hm : c.mapper = .mbc3) (n : Nat) (v : Byte) :
    (c.writeMbc3 n v).Inv := by
  unfold Cart.writeMbc3
  split
  · exact ⟨h.banks, h.romBank, h.ramBank⟩
  · split
    · refine ⟨h.banks, ?_, h.ramBank⟩
      rw [show c.mapper.romBankLimit = 2 ^ 7 by rw [hm]; rfl]
      exact and_lt _ _ (by decide)
    · split <;> exact ⟨h.banks, h.romBank, h.ramBank⟩

theorem Cart.Inv.writeMbc5 {c : Cart} (h : c.Inv) (hm : c.mapper = .mbc5) (n : Nat) (v : Byte) :
    (c.writeMbc5 n v).Inv := by
  have wide : ∀ (r : BitVec 9) (q : BitVec 4) (e : Bool),
      ({ c with ramEnable := e, romBank := r, ramBank := q } : Cart).Inv := fun r q e =>
    ⟨h.banks, by simp only [hm, Mapper.romBankLimit]; exact r.isLt,
      by simp only [hm, Mapper.ramBankLimit]; exact q.isLt⟩
  unfold Cart.writeMbc5
  split
  · exact wide _ _ _
  · split
    · exact wide _ _ _
    · split
      · exact wide _ _ _
      · split
        · exact wide _ _ _
        · exact h

theorem writeMbc1_fixed (c : Cart) (n : Nat) (v : Byte) :
    (c.writeMbc1 n v).romBanks = c.romBanks ∧ (c.writeMbc1 n v).ramSize = c.ramSize := by
  unfold Cart.writeMbc1
  repeat' split
  all_goals exact ⟨rfl, rfl⟩

theorem writeMbc2_fixed (c : Cart) (n : Nat) (v : Byte) :
    (c.writeMbc2 n v).romBanks = c.romBanks ∧ (c.writeMbc2 n v).ramSize = c.ramSize := by
  unfold Cart.writeMbc2
  repeat' split
  all_goals exact ⟨rfl, rfl⟩

theorem writeMbc3_fixed (c : Cart) (n : Nat) (v : Byte) :
    (c.writeMbc3 n v).romBanks = c.romBanks ∧ (c.writeMbc3 n v).ramSize = c.ramSize := by
  unfold Cart.writeMbc3
  repeat' split
  all_goals exact ⟨rfl, rfl⟩

theorem writeMbc5_fixed (c : Cart) (n : Nat) (v : Byte) :
    (c.writeMbc5 n v).romBanks = c.romBanks ∧ (c.writeMbc5 n v).ramSize = c.ramSize := by
  unfold Cart.writeMbc5
  repeat' split
  all_goals exact ⟨rfl, rfl⟩

/-- A latch changes the RTC and the wall readings alone. -/
theorem rtcLatch_mapper (s : State) : (rtcLatch s).cart.mapper = s.cart.mapper := by
  unfold rtcLatch rtcNow readWall
  repeat' split
  all_goals rfl

theorem State.Inv.mapperWrite {s : State} (h : s.Inv) (n : Nat) (v : Byte) : (mapperWrite s n v).Inv := by
  unfold Machine.mapperWrite
  split
  · exact h
  · next hm => exact h.withCart (h.cart.writeMbc1 hm n v) (writeMbc1_fixed _ n v).1 (writeMbc1_fixed _ n v).2
  · next hm => exact h.withCart (h.cart.writeMbc2 hm n v) (writeMbc2_fixed _ n v).1 (writeMbc2_fixed _ n v).2
  · next hm =>
    extract_lets s1
    have h1 : s1.Inv := State.Inv.ite (fun _ => h.rtcLatch) fun _ => h
    have hm1 : s1.cart.mapper = .mbc3 := by
      simp only [s1]
      split
      · rw [rtcLatch_mapper, hm]
      · exact hm
    exact h1.withCart (h1.cart.writeMbc3 hm1 n v) (writeMbc3_fixed _ n v).1 (writeMbc3_fixed _ n v).2
  · next hm => exact h.withCart (h.cart.writeMbc5 hm n v) (writeMbc5_fixed _ n v).1 (writeMbc5_fixed _ n v).2

/-! ### The I/O page -/

theorem State.Inv.blankLines {s : State} (h : s.Inv) (gbc : Bool) (ly n : Nat) : (blankLines gbc ly n s).Inv := by
  induction n generalizing ly s with
  | zero => exact h
  | succ n ih => exact ih (h.emit _) (ly + 1)

theorem State.Inv.lcdcWrite {s : State} (h : s.Inv) (v : Byte) : (lcdcWrite s v).Inv := by
  unfold Machine.lcdcWrite
  extract_lets _ _ s1 s2
  have h1 : s1.Inv := h.withPpu ⟨h.ppu.ly, h.ppu.linePosition⟩
  exact State.Inv.ite
    (fun _ => (h1.blankLines _ _ _).withPpu ⟨(by decide : 0 < frameLines), (by decide : 0 < lineCycles)⟩) fun _ => h1

theorem State.Inv.dmaWrite {s : State} (h : s.Inv) (v : Byte) : (dmaWrite s v).Inv := by
  unfold Machine.dmaWrite
  exact State.Inv.ite
    (fun _ => h.withDma ⟨Nat.zero_le _, (by decide : 0 < 4), fun _ => (by decide : 0 < oamSize)⟩)
    fun _ => h.withDma ⟨h.dma.position, h.dma.phase, by simp⟩

theorem State.Inv.hdmaBulk {s : State} (h : s.Inv) : (hdmaBulk s).Inv := by
  unfold Machine.hdmaBulk
  extract_lets n s1
  have h1 : s1.Inv := h.repeatN (f := Machine.hdmaCopyByte) (fun _ => State.Inv.hdmaCopyByte) n
  exact State.Inv.repeatN (fun _ => State.Inv.cycle) _ (h1.withHdma ⟨Nat.zero_le _, by simp⟩)

theorem State.Inv.hdma5Write {s : State} (h : s.Inv) (v : Byte) : (hdma5Write s v).Inv := by
  have hl : (v.extractLsb' 0 7).toNat + 1 ≤ 128 := (v.extractLsb' 0 7).isLt
  unfold Machine.hdma5Write
  exact State.Inv.ite (fun _ => h.withHdma ⟨h.hdma.remaining, by simp⟩) fun _ =>
    State.Inv.ite (fun _ => h.withHdma ⟨hl, fun _ => Nat.le_add_left 1 _⟩) fun _ =>
      (h.withHdma ⟨hl, fun _ => Nat.le_add_left 1 _⟩).hdmaBulk

theorem State.Inv.withBgPal {s : State} (h : s.Inv) (v : Byte) :
    ({ s with mem := { s.mem with bgPal := s.mem.bgPal.write s.ppu.bgIndex.toNat v } } : State).Inv :=
  { h with mem := { h.mem with bgPal := Memory.inv_write h.mem.bgPal s.ppu.bgIndex.isLt v } }

theorem State.Inv.withObjPal {s : State} (h : s.Inv) (v : Byte) :
    ({ s with mem := { s.mem with objPal := s.mem.objPal.write s.ppu.objIndex.toNat v } } : State).Inv :=
  { h with mem := { h.mem with objPal := Memory.inv_write h.mem.objPal s.ppu.objIndex.isLt v } }

theorem hdmaAddrWrite_fixed (d : Hdma) (off : Nat) (v : Byte) :
    (hdmaAddrWrite d off v).remaining = d.remaining ∧ (hdmaAddrWrite d off v).active = d.active := by
  unfold hdmaAddrWrite
  split <;> exact ⟨rfl, rfl⟩

theorem State.Inv.hdmaAddrWrite {s : State} (h : s.Inv) (off : Nat) (v : Byte) :
    ({ s with hdma := hdmaAddrWrite s.hdma off v } : State).Inv := by
  obtain ⟨hr, ha⟩ := hdmaAddrWrite_fixed s.hdma off v
  exact h.withHdma ⟨by rw [hr]; exact h.hdma.remaining, by rw [hr, ha]; exact h.hdma.left⟩

theorem State.Inv.ioWriteGbc {s : State} (h : s.Inv) (off : Nat) (v : Byte) : (ioWriteGbc s off v).Inv := by
  have hp := h.ppu
  unfold Machine.ioWriteGbc
  split
  · exact h.withPpu ⟨hp.ly, hp.linePosition⟩
  · exact h.hdmaAddrWrite _ v
  · exact h.hdmaAddrWrite _ v
  · exact h.hdmaAddrWrite _ v
  · exact h.hdmaAddrWrite _ v
  · exact h.hdma5Write v
  · exact h.withPpu ⟨hp.ly, hp.linePosition⟩
  · exact (h.withBgPal v).withPpu ⟨hp.ly, hp.linePosition⟩
  · exact h.withPpu ⟨hp.ly, hp.linePosition⟩
  · exact (h.withObjPal v).withPpu ⟨hp.ly, hp.linePosition⟩
  · exact { h with mem := h.mem }
  · exact h

theorem Spu.write_samplePhase (p : Spu) (off : Nat) (v : Byte) : (p.write off v).samplePhase = p.samplePhase := by
  unfold Spu.write Spu.writeMaster Spu.writeReg
  repeat' split
  all_goals rfl

theorem State.Inv.ioWrite {s : State} (h : s.Inv) {off : Nat} (v : Byte) : (ioWrite s off v).Inv := by
  have hp := h.ppu
  unfold Machine.ioWrite
  refine State.Inv.ite (fun _ => h.withSpu (by rw [Spu.write_samplePhase]; exact h.samplePhase)) fun _ =>
    State.Inv.ite (fun hw => ?_) fun _ => ?_
  · exact { h with mem := { h.mem with wave := Memory.inv_write h.mem.wave (by omega) v } }
  · split
    · exact h.withIo _
    · exact h.withTimer _
    · exact h.withTimer _
    · exact h.withTimer _
    · exact h.withTimer _
    · exact { h with mem := h.mem }
    · exact h.lcdcWrite v
    · exact h.withPpu ⟨hp.ly, hp.linePosition⟩
    · exact h.withPpu ⟨hp.ly, hp.linePosition⟩
    · exact h.withPpu ⟨hp.ly, hp.linePosition⟩
    · exact h.withPpu ⟨hp.ly, hp.linePosition⟩
    · exact h.dmaWrite v
    · exact h.withPpu ⟨hp.ly, hp.linePosition⟩
    · exact h.withPpu ⟨hp.ly, hp.linePosition⟩
    · exact h.withPpu ⟨hp.ly, hp.linePosition⟩
    · exact h.withPpu ⟨hp.ly, hp.linePosition⟩
    · exact h.withPpu ⟨hp.ly, hp.linePosition⟩
    · exact State.Inv.ite (fun _ => h.ioWriteGbc _ v) fun _ => h

/-- A bus write keeps the invariant. -/
theorem State.Inv.busWrite {s : State} (h : s.Inv) (a : Word) (v : Byte) : (busWrite s a v).Inv := by
  have hl := locate_inRange s a
  unfold Machine.busWrite
  split
  · exact h.mapperWrite _ v
  · next he => rw [he] at hl; exact h.withVram hl v
  · exact h.extWrite _ v
  · next he =>
    rw [he] at hl
    exact { h with mem := { h.mem with wram := Memory.inv_write h.mem.wram hl v } }
  · next he => rw [he] at hl; exact h.withOam hl v
  · exact h
  · exact h.ioWrite v
  · next he =>
    rw [he] at hl
    exact { h with mem := { h.mem with zp := Memory.inv_write h.mem.zp hl v } }
  · exact { h with mem := h.mem }

end Sys2Proof.Machine
end

