-- ==== Sys2Proof/Laws/PerInstr.lean ====
section
/-! SUPPORT. One lemma per instruction, for statements about every instruction as syntax. -/

namespace Sys2Proof.Laws.EncodeLength

/-- An instruction is one to three bytes (30_encoding.md R200), and its first byte alone tells how many: the operand bytes of the
format, or the second opcode byte after 0xCB. The row PREFIX_CB is the byte 0xCB alone. -/
abbrev Statement (i : Instr) : Prop :=
  i.wf = true → 1 ≤ (encode i).length ∧ (encode i).length ≤ 3 ∧
    (i ≠ .prefixCb → (encode i).length = 1 + operandBytes ((encode i).getD 0 0))

/-- What is left to show once the length is known. -/
theorem intro {i : Instr} {n : Nat} (hn : n ≤ 2) (h : (encode i).length = n + 1)
    (k : i ≠ .prefixCb → operandBytes ((encode i).getD 0 0) = n) : Statement i := fun _ =>
  ⟨by omega, by omega, fun hi => by rw [k hi, h, Nat.add_comm]⟩

theorem ldRR (dst : R8) (src : R8) : Statement (.ldRR dst src) :=
  intro (n := 0) (by decide) rfl fun _ => by
    show operandBytes (opByte 1 dst.code src.code) = 0
    cases dst <;> cases src <;> decide

theorem ldRN (dst : R8) (n : Byte) : Statement (.ldRN dst n) :=
  intro (n := 1) (by decide) rfl fun _ => by
    show operandBytes (opByte 0 dst.code 6) = 1
    cases dst <;> decide

theorem ldRHl (dst : R8) : Statement (.ldRHl dst) :=
  intro (n := 0) (by decide) rfl fun _ => by
    show operandBytes (opByte 1 dst.code 6) = 0
    cases dst <;> decide

theorem ldHlR (src : R8) : Statement (.ldHlR src) :=
  intro (n := 0) (by decide) rfl fun _ => by
    show operandBytes (opByte 1 6 src.code) = 0
    cases src <;> decide

theorem ldHlN (n : Byte) : Statement (.ldHlN n) :=
  intro (n := 1) (by decide) rfl fun _ => (by decide : operandBytes 0x36 = 1)

theorem ldABc : Statement .ldABc :=
  intro (n := 0) (by decide) rfl fun _ => (by decide : operandBytes 0x0A = 0)

theorem ldADe : Statement .ldADe :=
  intro (n := 0) (by decide) rfl fun _ => (by decide : operandBytes 0x1A = 0)

theorem ldBcA : Statement .ldBcA :=
  intro (n := 0) (by decide) rfl fun _ => (by decide : operandBytes 0x02 = 0)

theorem ldDeA : Statement .ldDeA :=
  intro (n := 0) (by decide) rfl fun _ => (by decide : operandBytes 0x12 = 0)

theorem ldAN16 (a : Word) : Statement (.ldAN16 a) :=
  intro (n := 2) (by decide) rfl fun _ => (by decide : operandBytes 0xFA = 2)

theorem ldN16A (a : Word) : Statement (.ldN16A a) :=
  intro (n := 2) (by decide) rfl fun _ => (by decide : operandBytes 0xEA = 2)

theorem ldhAN (n : Byte) : Statement (.ldhAN n) :=
  intro (n := 1) (by decide) rfl fun _ => (by decide : operandBytes 0xF0 = 1)

theorem ldhNA (n : Byte) : Statement (.ldhNA n) :=
  intro (n := 1) (by decide) rfl fun _ => (by decide : operandBytes 0xE0 = 1)

theorem ldAC : Statement .ldAC :=
  intro (n := 0) (by decide) rfl fun _ => (by decide : operandBytes 0xF2 = 0)

theorem ldCA : Statement .ldCA :=
  intro (n := 0) (by decide) rfl fun _ => (by decide : operandBytes 0xE2 = 0)

theorem ldAHli : Statement .ldAHli :=
  intro (n := 0) (by decide) rfl fun _ => (by decide : operandBytes 0x2A = 0)

theorem ldAHld : Statement .ldAHld :=
  intro (n := 0) (by decide) rfl fun _ => (by decide : operandBytes 0x3A = 0)

theorem ldHliA : Statement .ldHliA :=
  intro (n := 0) (by decide) rfl fun _ => (by decide : operandBytes 0x22 = 0)

theorem ldHldA : Statement .ldHldA :=
  intro (n := 0) (by decide) rfl fun _ => (by decide : operandBytes 0x32 = 0)

theorem ldRrN16 (p : R16) (v : Word) : Statement (.ldRrN16 p v) :=
  intro (n := 2) (by decide) rfl fun _ => by
    show operandBytes (opByte 0 (2 * p.code) 1) = 2
    cases p <;> decide

theorem ldN16Sp (a : Word) : Statement (.ldN16Sp a) :=
  intro (n := 2) (by decide) rfl fun _ => (by decide : operandBytes 0x08 = 2)

theorem ldSpHl : Statement .ldSpHl :=
  intro (n := 0) (by decide) rfl fun _ => (by decide : operandBytes 0xF9 = 0)

theorem ldHlSpE (e : Byte) : Statement (.ldHlSpE e) :=
  intro (n := 1) (by decide) rfl fun _ => (by decide : operandBytes 0xF8 = 1)

theorem pushRr (q : R16q) : Statement (.pushRr q) :=
  intro (n := 0) (by decide) rfl fun _ => by
    show operandBytes (opByte 3 (2 * q.code) 5) = 0
    cases q <;> decide

theorem popRr (q : R16p) : Statement (.popRr q) :=
  intro (n := 0) (by decide) rfl fun _ => by
    show operandBytes (opByte 3 (2 * q.code) 1) = 0
    cases q <;> decide

theorem popAf : Statement .popAf :=
  intro (n := 0) (by decide) rfl fun _ => (by decide : operandBytes 0xF1 = 0)

theorem addR (r : R8) : Statement (.addR r) :=
  intro (n := 0) (by decide) rfl fun _ => by
    show operandBytes (opByte 2 0 r.code) = 0
    cases r <;> decide

theorem addHl : Statement .addHl :=
  intro (n := 0) (by decide) rfl fun _ => (by decide : operandBytes 0x86 = 0)

theorem addN (n : Byte) : Statement (.addN n) :=
  intro (n := 1) (by decide) rfl fun _ => (by decide : operandBytes 0xC6 = 1)

theorem adcR (r : R8) : Statement (.adcR r) :=
  intro (n := 0) (by decide) rfl fun _ => by
    show operandBytes (opByte 2 1 r.code) = 0
    cases r <;> decide

theorem adcHl : Statement .adcHl :=
  intro (n := 0) (by decide) rfl fun _ => (by decide : operandBytes 0x8E = 0)

theorem adcN (n : Byte) : Statement (.adcN n) :=
  intro (n := 1) (by decide) rfl fun _ => (by decide : operandBytes 0xCE = 1)

theorem subR (r : R8) : Statement (.subR r) :=
  intro (n := 0) (by decide) rfl fun _ => by
    show operandBytes (opByte 2 2 r.code) = 0
    cases r <;> decide

theorem subHl : Statement .subHl :=
  intro (n := 0) (by decide) rfl fun _ => (by decide : operandBytes 0x96 = 0)

theorem subN (n : Byte) : Statement (.subN n) :=
  intro (n := 1) (by decide) rfl fun _ => (by decide : operandBytes 0xD6 = 1)

theorem sbcR (r : R8) : Statement (.sbcR r) :=
  intro (n := 0) (by decide) rfl fun _ => by
    show operandBytes (opByte 2 3 r.code) = 0
    cases r <;> decide

theorem sbcHl : Statement .sbcHl :=
  intro (n := 0) (by decide) rfl fun _ => (by decide : operandBytes 0x9E = 0)

theorem sbcN (n : Byte) : Statement (.sbcN n) :=
  intro (n := 1) (by decide) rfl fun _ => (by decide : operandBytes 0xDE = 1)

theorem andR (r : R8) : Statement (.andR r) :=
  intro (n := 0) (by decide) rfl fun _ => by
    show operandBytes (opByte 2 4 r.code) = 0
    cases r <;> decide

theorem andHl : Statement .andHl :=
  intro (n := 0) (by decide) rfl fun _ => (by decide : operandBytes 0xA6 = 0)

theorem andN (n : Byte) : Statement (.andN n) :=
  intro (n := 1) (by decide) rfl fun _ => (by decide : operandBytes 0xE6 = 1)

theorem xorR (r : R8) : Statement (.xorR r) :=
  intro (n := 0) (by decide) rfl fun _ => by
    show operandBytes (opByte 2 5 r.code) = 0
    cases r <;> decide

theorem xorHl : Statement .xorHl :=
  intro (n := 0) (by decide) rfl fun _ => (by decide : operandBytes 0xAE = 0)

theorem xorN (n : Byte) : Statement (.xorN n) :=
  intro (n := 1) (by decide) rfl fun _ => (by decide : operandBytes 0xEE = 1)

theorem orR (r : R8) : Statement (.orR r) :=
  intro (n := 0) (by decide) rfl fun _ => by
    show operandBytes (opByte 2 6 r.code) = 0
    cases r <;> decide

theorem orHl : Statement .orHl :=
  intro (n := 0) (by decide) rfl fun _ => (by decide : operandBytes 0xB6 = 0)

theorem orN (n : Byte) : Statement (.orN n) :=
  intro (n := 1) (by decide) rfl fun _ => (by decide : operandBytes 0xF6 = 1)

theorem cpR (r : R8) : Statement (.cpR r) :=
  intro (n := 0) (by decide) rfl fun _ => by
    show operandBytes (opByte 2 7 r.code) = 0
    cases r <;> decide

theorem cpHl : Statement .cpHl :=
  intro (n := 0) (by decide) rfl fun _ => (by decide : operandBytes 0xBE = 0)

theorem cpN (n : Byte) : Statement (.cpN n) :=
  intro (n := 1) (by decide) rfl fun _ => (by decide : operandBytes 0xFE = 1)

theorem incR (dst : R8) : Statement (.incR dst) :=
  intro (n := 0) (by decide) rfl fun _ => by
    show operandBytes (opByte 0 dst.code 4) = 0
    cases dst <;> decide

theorem decR (dst : R8) : Statement (.decR dst) :=
  intro (n := 0) (by decide) rfl fun _ => by
    show operandBytes (opByte 0 dst.code 5) = 0
    cases dst <;> decide

theorem incHl : Statement .incHl :=
  intro (n := 0) (by decide) rfl fun _ => (by decide : operandBytes 0x34 = 0)

theorem decHl : Statement .decHl :=
  intro (n := 0) (by decide) rfl fun _ => (by decide : operandBytes 0x35 = 0)

theorem daa : Statement .daa :=
  intro (n := 0) (by decide) rfl fun _ => (by decide : operandBytes 0x27 = 0)

theorem cpl : Statement .cpl :=
  intro (n := 0) (by decide) rfl fun _ => (by decide : operandBytes 0x2F = 0)

theorem scf : Statement .scf :=
  intro (n := 0) (by decide) rfl fun _ => (by decide : operandBytes 0x37 = 0)

theorem ccf : Statement .ccf :=
  intro (n := 0) (by decide) rfl fun _ => (by decide : operandBytes 0x3F = 0)

theorem addHlRr (p : R16) : Statement (.addHlRr p) :=
  intro (n := 0) (by decide) rfl fun _ => by
    show operandBytes (opByte 0 (2 * p.code + 1) 1) = 0
    cases p <;> decide

theorem incRr (p : R16) : Statement (.incRr p) :=
  intro (n := 0) (by decide) rfl fun _ => by
    show operandBytes (opByte 0 (2 * p.code) 3) = 0
    cases p <;> decide

theorem decRr (p : R16) : Statement (.decRr p) :=
  intro (n := 0) (by decide) rfl fun _ => by
    show operandBytes (opByte 0 (2 * p.code + 1) 3) = 0
    cases p <;> decide

theorem addSpE (e : Byte) : Statement (.addSpE e) :=
  intro (n := 1) (by decide) rfl fun _ => (by decide : operandBytes 0xE8 = 1)

theorem rlca : Statement .rlca :=
  intro (n := 0) (by decide) rfl fun _ => (by decide : operandBytes 0x07 = 0)

theorem rrca : Statement .rrca :=
  intro (n := 0) (by decide) rfl fun _ => (by decide : operandBytes 0x0F = 0)

theorem rla : Statement .rla :=
  intro (n := 0) (by decide) rfl fun _ => (by decide : operandBytes 0x17 = 0)

theorem rra : Statement .rra :=
  intro (n := 0) (by decide) rfl fun _ => (by decide : operandBytes 0x1F = 0)

theorem rlcR (r : R8) : Statement (.rlcR r) :=
  intro (n := 1) (by decide) rfl fun _ => (by decide : operandBytes 0xCB = 1)

theorem rlcHl : Statement .rlcHl :=
  intro (n := 1) (by decide) rfl fun _ => (by decide : operandBytes 0xCB = 1)

theorem rrcR (r : R8) : Statement (.rrcR r) :=
  intro (n := 1) (by decide) rfl fun _ => (by decide : operandBytes 0xCB = 1)

theorem rrcHl : Statement .rrcHl :=
  intro (n := 1) (by decide) rfl fun _ => (by decide : operandBytes 0xCB = 1)

theorem rlR (r : R8) : Statement (.rlR r) :=
  intro (n := 1) (by decide) rfl fun _ => (by decide : operandBytes 0xCB = 1)

theorem rlHl : Statement .rlHl :=
  intro (n := 1) (by decide) rfl fun _ => (by decide : operandBytes 0xCB = 1)

theorem rrR (r : R8) : Statement (.rrR r) :=
  intro (n := 1) (by decide) rfl fun _ => (by decide : operandBytes 0xCB = 1)

theorem rrHl : Statement .rrHl :=
  intro (n := 1) (by decide) rfl fun _ => (by decide : operandBytes 0xCB = 1)

theorem slaR (r : R8) : Statement (.slaR r) :=
  intro (n := 1) (by decide) rfl fun _ => (by decide : operandBytes 0xCB = 1)

theorem slaHl : Statement .slaHl :=
  intro (n := 1) (by decide) rfl fun _ => (by decide : operandBytes 0xCB = 1)

theorem sraR (r : R8) : Statement (.sraR r) :=
  intro (n := 1) (by decide) rfl fun _ => (by decide : operandBytes 0xCB = 1)

theorem sraHl : Statement .sraHl :=
  intro (n := 1) (by decide) rfl fun _ => (by decide : operandBytes 0xCB = 1)

theorem swapR (r : R8) : Statement (.swapR r) :=
  intro (n := 1) (by decide) rfl fun _ => (by decide : operandBytes 0xCB = 1)

theorem swapHl : Statement .swapHl :=
  intro (n := 1) (by decide) rfl fun _ => (by decide : operandBytes 0xCB = 1)

theorem srlR (r : R8) : Statement (.srlR r) :=
  intro (n := 1) (by decide) rfl fun _ => (by decide : operandBytes 0xCB = 1)

theorem srlHl : Statement .srlHl :=
  intro (n := 1) (by decide) rfl fun _ => (by decide : operandBytes 0xCB = 1)

theorem bitR (b : Index3) (r : R8) : Statement (.bitR b r) :=
  intro (n := 1) (by decide) rfl fun _ => (by decide : operandBytes 0xCB = 1)

theorem bitHl (b : Index3) : Statement (.bitHl b) :=
  intro (n := 1) (by decide) rfl fun _ => (by decide : operandBytes 0xCB = 1)

theorem resR (b : Index3) (r : R8) : Statement (.resR b r) :=
  intro (n := 1) (by decide) rfl fun _ => (by decide : operandBytes 0xCB = 1)

theorem resHl (b : Index3) : Statement (.resHl b) :=
  intro (n := 1) (by decide) rfl fun _ => (by decide : operandBytes 0xCB = 1)

theorem setR (b : Index3) (r : R8) : Statement (.setR b r) :=
  intro (n := 1) (by decide) rfl fun _ => (by decide : operandBytes 0xCB = 1)

theorem setHl (b : Index3) : Statement (.setHl b) :=
  intro (n := 1) (by decide) rfl fun _ => (by decide : operandBytes 0xCB = 1)

theorem jp (a : Word) : Statement (.jp a) :=
  intro (n := 2) (by decide) rfl fun _ => (by decide : operandBytes 0xC3 = 2)

theorem jpCc (cc : Cond) (a : Word) : Statement (.jpCc cc a) :=
  intro (n := 2) (by decide) rfl fun _ => by
    show operandBytes (opByte 3 cc.code 2) = 2
    cases cc <;> decide

theorem jpHl : Statement .jpHl :=
  intro (n := 0) (by decide) rfl fun _ => (by decide : operandBytes 0xE9 = 0)

theorem jr (e : Byte) : Statement (.jr e) :=
  intro (n := 1) (by decide) rfl fun _ => (by decide : operandBytes 0x18 = 1)

theorem jrCc (cc : Cond) (e : Byte) : Statement (.jrCc cc e) :=
  intro (n := 1) (by decide) rfl fun _ => by
    show operandBytes (opByte 0 (4 + cc.code) 0) = 1
    cases cc <;> decide

theorem call (a : Word) : Statement (.call a) :=
  intro (n := 2) (by decide) rfl fun _ => (by decide : operandBytes 0xCD = 2)

theorem callCc (cc : Cond) (a : Word) : Statement (.callCc cc a) :=
  intro (n := 2) (by decide) rfl fun _ => by
    show operandBytes (opByte 3 cc.code 4) = 2
    cases cc <;> decide

theorem ret : Statement .ret :=
  intro (n := 0) (by decide) rfl fun _ => (by decide : operandBytes 0xC9 = 0)

theorem retCc (cc : Cond) : Statement (.retCc cc) :=
  intro (n := 0) (by decide) rfl fun _ => by
    show operandBytes (opByte 3 cc.code 0) = 0
    cases cc <;> decide

theorem reti : Statement .reti :=
  intro (n := 0) (by decide) rfl fun _ => (by decide : operandBytes 0xD9 = 0)

theorem rst (t : Index3) : Statement (.rst t) :=
  intro (n := 0) (by decide) rfl fun _ => (by decide : ∀ v : Index3, operandBytes (opByte 3 v.toNat 7) = 0) t

theorem nop : Statement .nop :=
  intro (n := 0) (by decide) rfl fun _ => (by decide : operandBytes 0x00 = 0)

theorem prefixCb : Statement .prefixCb := intro (n := 0) (by decide) rfl fun h => absurd rfl h

theorem halt : Statement .halt :=
  intro (n := 0) (by decide) rfl fun _ => (by decide : operandBytes 0x76 = 0)

theorem stop : Statement .stop :=
  intro (n := 0) (by decide) rfl fun _ => (by decide : operandBytes 0x10 = 0)

theorem di : Statement .di :=
  intro (n := 0) (by decide) rfl fun _ => (by decide : operandBytes 0xF3 = 0)

theorem ei : Statement .ei :=
  intro (n := 0) (by decide) rfl fun _ => (by decide : operandBytes 0xFB = 0)

theorem illegal (op : Byte) : Statement (.illegal op) := by
  intro h
  have key : ∀ v : Byte, illegalOpcodes.contains v = true → operandBytes v = 0 := by decide
  exact intro (i := .illegal op) (n := 0) (by decide) rfl (fun _ => key op h) h

end Sys2Proof.Laws.EncodeLength
end

