-- ==== Sys2Proof/Tests/Slice0.lean ====
section
/-! SUPPORT. Tests on fixed values, each expected result from the spec, and for every statement with hypotheses a machine that
meets them. -/

set_option maxRecDepth 100000

namespace Sys2Proof.Machine.Test

/-! ## Helpers -/

/-- The start of a CPU vector (95_test_vectors.md section 1): registers 0, SP 0xFFFE, PC 0xC000. -/
def cpu0 : Cpu where
  a := 0
  f := { z := false, n := false, h := false, c := false }
  b := 0
  c := 0
  d := 0
  e := 0
  h := 0
  l := 0
  sp := 0xFFFE
  pc := 0xC000
  ime := false
  eiPending := false
  halted := false

/-- The four flags as digits. -/
def flags (z n h c : Nat) : Flags where
  z := z == 1
  n := n == 1
  h := h == 1
  c := c == 1

/-- A byte put into WRAM, zero page or IE. -/
def place (s : State) (a : Word) (v : Byte) : State :=
  if a = 0xFFFF then { s with int := { s.int with enable := v } }
  else if 0xFF80 ≤ a.toNat then { s with mem := { s.mem with zp := s.mem.zp.write (a.toNat - 0xFF80) v } }
  else { s with mem := { s.mem with wram := s.mem.wram.write (a.toNat - 0xC000) v } }

/-- The reset machine with the CPU `c`, the instruction bytes at 0xC000 and the listed bytes in memory. -/
def start (bytes : List Byte) (c : Cpu) (cells : List (Word × Byte)) : State :=
  cells.foldl (fun s p => place s p.1 p.2)
    { State.reset with cpu := c, mem := { State.reset.mem with wram := Memory.ofBytes 0 bytes } }

/-- One step of `s` ends with the CPU `c`, the listed bytes on the bus and T at `cycles`, and without a fault. -/
def runs (s : State) (c : Cpu) (cells : List (Word × Byte)) (cycles : Nat) : Bool :=
  match step s with
  | .next t => decide (t.cpu = c) && cells.all (fun p => busRead t p.1 == p.2) && t.t == cycles && t.fault == none
  | .fault _ => false
  | .refused _ => false

/-! ## Well-formedness: each check refuses an ill-formed term -/

theorem test_wf_refuses_a_defined_opcode : (Instr.illegal 0x00).wf = false := by decide
theorem test_wf_refuses_the_prefix_as_illegal : (Instr.illegal 0xCB).wf = false := by decide
theorem test_wf_accepts_the_undefined_opcodes :
    ([0xD3, 0xDB, 0xDD, 0xE3, 0xE4, 0xEB, 0xEC, 0xED, 0xF4, 0xFC, 0xFD] : List Byte).all (fun op => (Instr.illegal op).wf)
      = true := by decide

/-! ## Words written out bit by bit from the encodings of spec/opcode_table.json and 40_load8.md to 47_system.md -/

/-- The bytes decode to the instruction with nothing left over, and the instruction encodes to the bytes. -/
def isWord (bytes : List Byte) (i : Instr) : Bool :=
  encode i == bytes && match decode bytes with
    | .ok (j, rest) => j == i && rest.isEmpty
    | .error _ => false

theorem test_words_load8 : ([
    ([0b01000001], .ldRR .b .c), ([0b01111101], .ldRR .a .l), ([0b00011110, 0x9C], .ldRN .e 0x9C),
    ([0b01010110], .ldRHl .d), ([0b01110100], .ldHlR .h), ([0b00110110, 0x42], .ldHlN 0x42),
    ([0b00001010], .ldABc), ([0b00011010], .ldADe), ([0b00000010], .ldBcA), ([0b00010010], .ldDeA),
    ([0b11111010, 0x34, 0x12], .ldAN16 0x1234), ([0b11101010, 0x34, 0x12], .ldN16A 0x1234),
    ([0b11110000, 0x44], .ldhAN 0x44), ([0b11100000, 0x47], .ldhNA 0x47), ([0b11110010], .ldAC), ([0b11100010], .ldCA),
    ([0b00101010], .ldAHli), ([0b00111010], .ldAHld), ([0b00100010], .ldHliA), ([0b00110010], .ldHldA)]
    : List (List Byte × Instr)).all (fun p => isWord p.1 p.2) = true := by decide

theorem test_words_load16 : ([
    ([0b00000001, 0x34, 0x12], .ldRrN16 .bc 0x1234), ([0b00110001, 0xFE, 0xFF], .ldRrN16 .sp 0xFFFE),
    ([0b00001000, 0x00, 0xD0], .ldN16Sp 0xD000), ([0b11111001], .ldSpHl), ([0b11111000, 0xFE], .ldHlSpE 0xFE),
    ([0b11000101], .pushRr .bc), ([0b11110101], .pushRr .af), ([0b11010001], .popRr .de), ([0b11110001], .popAf)]
    : List (List Byte × Instr)).all (fun p => isWord p.1 p.2) = true := by decide

theorem test_words_alu8 : ([
    ([0b10000000], .addR .b), ([0b10000110], .addHl), ([0b11000110, 0x38], .addN 0x38),
    ([0b10001011], .adcR .e), ([0b10001110], .adcHl), ([0b11001110, 0x01], .adcN 0x01),
    ([0b10010111], .subR .a), ([0b10010110], .subHl), ([0b11010110, 0x40], .subN 0x40),
    ([0b10011100], .sbcR .h), ([0b10011110], .sbcHl), ([0b11011110, 0x02], .sbcN 0x02),
    ([0b10100101], .andR .l), ([0b10100110], .andHl), ([0b11100110, 0x0F], .andN 0x0F),
    ([0b10101111], .xorR .a), ([0b10101110], .xorHl), ([0b11101110, 0x55], .xorN 0x55),
    ([0b10110001], .orR .c), ([0b10110110], .orHl), ([0b11110110, 0x80], .orN 0x80),
    ([0b10111010], .cpR .d), ([0b10111110], .cpHl), ([0b11111110, 0x3C], .cpN 0x3C),
    ([0b00000100], .incR .b), ([0b00111101], .decR .a), ([0b00110100], .incHl), ([0b00110101], .decHl),
    ([0b00100111], .daa), ([0b00101111], .cpl), ([0b00110111], .scf), ([0b00111111], .ccf)]
    : List (List Byte × Instr)).all (fun p => isWord p.1 p.2) = true := by decide

theorem test_words_alu16 : ([
    ([0b00001001], .addHlRr .bc), ([0b00111001], .addHlRr .sp), ([0b00010011], .incRr .de), ([0b00101011], .decRr .hl),
    ([0b11101000, 0x80], .addSpE 0x80)]
    : List (List Byte × Instr)).all (fun p => isWord p.1 p.2) = true := by decide

theorem test_words_rotate_shift : ([
    ([0b00000111], .rlca), ([0b00001111], .rrca), ([0b00010111], .rla), ([0b00011111], .rra),
    ([0xCB, 0b00000000], .rlcR .b), ([0xCB, 0b00000110], .rlcHl), ([0xCB, 0b00001001], .rrcR .c), ([0xCB, 0b00001110], .rrcHl),
    ([0xCB, 0b00010010], .rlR .d), ([0xCB, 0b00010110], .rlHl), ([0xCB, 0b00011011], .rrR .e), ([0xCB, 0b00011110], .rrHl),
    ([0xCB, 0b00100100], .slaR .h), ([0xCB, 0b00100110], .slaHl), ([0xCB, 0b00101101], .sraR .l), ([0xCB, 0b00101110], .sraHl),
    ([0xCB, 0b00110111], .swapR .a), ([0xCB, 0b00110110], .swapHl), ([0xCB, 0b00111000], .srlR .b), ([0xCB, 0b00111110], .srlHl)]
    : List (List Byte × Instr)).all (fun p => isWord p.1 p.2) = true := by decide

theorem test_words_bit : ([
    ([0xCB, 0b01111100], .bitR 7 .h), ([0xCB, 0b01011110], .bitHl 3), ([0xCB, 0b10000111], .resR 0 .a),
    ([0xCB, 0b10101110], .resHl 5), ([0xCB, 0b11010000], .setR 2 .b), ([0xCB, 0b11111110], .setHl 7)]
    : List (List Byte × Instr)).all (fun p => isWord p.1 p.2) = true := by decide

theorem test_words_control : ([
    ([0b11000011, 0x34, 0x12], .jp 0x1234), ([0b11011010, 0x00, 0x20], .jpCc .c 0x2000), ([0b11101001], .jpHl),
    ([0b00011000, 0xFE], .jr 0xFE), ([0b00110000, 0x10], .jrCc .nc 0x10), ([0b11001101, 0x00, 0x40], .call 0x4000),
    ([0b11001100, 0x00, 0x40], .callCc .z 0x4000), ([0b11001001], .ret), ([0b11000000], .retCc .nz), ([0b11011001], .reti),
    ([0b11101111], .rst 5)]
    : List (List Byte × Instr)).all (fun p => isWord p.1 p.2) = true := by decide

theorem test_words_system : ([
    ([0b00000000], .nop), ([0b11001011], .prefixCb), ([0b01110110], .halt), ([0b00010000], .stop), ([0b11110011], .di),
    ([0b11111011], .ei), ([0b11010011], .illegal 0xD3), ([0b11111101], .illegal 0xFD)]
    : List (List Byte × Instr)).all (fun p => isWord p.1 p.2) = true := by decide

/-- Truncated words are refused by name, and bytes after an instruction are left over (30_encoding.md R211). -/
theorem test_decode_truncated :
    (match decode [0xC3, 0x34] with | .ok _ => false | .error _ => true) = true ∧
    (match decode ([] : List Byte) with | .ok _ => false | .error _ => true) = true ∧
    (match decode [0x3E, 0x45, 0x77] with | .ok (i, rest) => i == .ldRN .a 0x45 && rest == [0x77] | .error _ => false) = true := by
  decide

/-! ## One step of each instruction -/

/-! ### 8-bit loads (95_test_vectors.md 3.1; the others by 40_load8.md R300 to R317) -/

theorem test_ld_r_r :
    runs (start [0x41] { cpu0 with c := 0x5A } [])
      { cpu0 with b := 0x5A, c := 0x5A, pc := 0xC001 } [] 4 = true := by decide

theorem test_ld_r_n :
    runs (start [0x26, 0x9C] cpu0 [])
      { cpu0 with h := 0x9C, pc := 0xC002 } [] 8 = true := by decide

theorem test_ld_r_hl_into_h :
    runs (start [0x66] { cpu0 with h := 0xC1, l := 0x00 } [(0xC100, 0x7E)])
      { cpu0 with h := 0x7E, l := 0x00, pc := 0xC001 } [] 8 = true := by decide

theorem test_ld_hl_r_stores_l :
    runs (start [0x75] { cpu0 with h := 0xC1, l := 0xA7 } [])
      { cpu0 with h := 0xC1, l := 0xA7, pc := 0xC001 } [(0xC1A7, 0xA7)] 8 = true := by decide

theorem test_ld_hl_n :
    runs (start [0x36, 0x99] { cpu0 with h := 0xC1, l := 0x00 } [])
      { cpu0 with h := 0xC1, l := 0x00, pc := 0xC002 } [(0xC100, 0x99)] 12 = true := by decide

theorem test_ld_a_bc :
    runs (start [0x0A] { cpu0 with b := 0xC1, c := 0x02 } [(0xC102, 0x33)])
      { cpu0 with a := 0x33, b := 0xC1, c := 0x02, pc := 0xC001 } [] 8 = true := by decide

theorem test_ld_a_de :
    runs (start [0x1A] { cpu0 with d := 0xC1, e := 0x03 } [(0xC103, 0x44)])
      { cpu0 with a := 0x44, d := 0xC1, e := 0x03, pc := 0xC001 } [] 8 = true := by decide

theorem test_ld_bc_a :
    runs (start [0x02] { cpu0 with a := 0x51, b := 0xC1, c := 0x04 } [])
      { cpu0 with a := 0x51, b := 0xC1, c := 0x04, pc := 0xC001 } [(0xC104, 0x51)] 8 = true := by decide

theorem test_ld_de_a :
    runs (start [0x12] { cpu0 with a := 0x52, d := 0xC1, e := 0x05 } [])
      { cpu0 with a := 0x52, d := 0xC1, e := 0x05, pc := 0xC001 } [(0xC105, 0x52)] 8 = true := by decide

theorem test_ld_a_n16_echo :
    runs (start [0xFA, 0x10, 0xE1] cpu0 [(0xC110, 0xAB)])
      { cpu0 with a := 0xAB, pc := 0xC003 } [] 16 = true := by decide

theorem test_ld_a_n16_unusable :
    runs (start [0xFA, 0xA0, 0xFE] cpu0 [])
      { cpu0 with a := 0xFF, pc := 0xC003 } [] 16 = true := by decide

theorem test_ld_n16_a :
    runs (start [0xEA, 0x34, 0xC2] { cpu0 with a := 0x5C } [])
      { cpu0 with a := 0x5C, pc := 0xC003 } [(0xC234, 0x5C)] 16 = true := by decide

theorem test_ldh_a_n_reads_if :
    runs (start [0xF0, 0x0F] cpu0 [])
      { cpu0 with a := 0xE1, pc := 0xC002 } [] 12 = true := by decide

theorem test_ldh_n_a :
    runs (start [0xE0, 0x80] { cpu0 with a := 0x3C } [])
      { cpu0 with a := 0x3C, pc := 0xC002 } [(0xFF80, 0x3C)] 12 = true := by decide

theorem test_ld_a_c :
    runs (start [0xF2] { cpu0 with c := 0x90 } [(0xFF90, 0x6B)])
      { cpu0 with a := 0x6B, c := 0x90, pc := 0xC001 } [] 8 = true := by decide

theorem test_ld_c_a_writes_ie :
    runs (start [0xE2] { cpu0 with a := 0x1F, c := 0xFF } [])
      { cpu0 with a := 0x1F, c := 0xFF, pc := 0xC001 } [(0xFFFF, 0x1F)] 8 = true := by decide

theorem test_ld_a_hli_wraps :
    runs (start [0x2A] { cpu0 with h := 0xFF, l := 0xFF } [(0xFFFF, 0x1E)])
      { cpu0 with a := 0x1E, h := 0x00, l := 0x00, pc := 0xC001 } [] 8 = true := by decide

theorem test_ld_a_hld :
    runs (start [0x3A] { cpu0 with h := 0xC1, l := 0x00 } [(0xC100, 0x61)])
      { cpu0 with a := 0x61, h := 0xC0, l := 0xFF, pc := 0xC001 } [] 8 = true := by decide

theorem test_ld_hli_a :
    runs (start [0x22] { cpu0 with a := 0x78, h := 0xC1, l := 0xFF } [])
      { cpu0 with a := 0x78, h := 0xC2, l := 0x00, pc := 0xC001 } [(0xC1FF, 0x78)] 8 = true := by decide

theorem test_ld_hld_a :
    runs (start [0x32] { cpu0 with a := 0x77, h := 0xC1, l := 0x00 } [])
      { cpu0 with a := 0x77, h := 0xC0, l := 0xFF, pc := 0xC001 } [(0xC100, 0x77)] 8 = true := by decide

/-! ### 16-bit loads and the stack (95_test_vectors.md 3.2; 41_load16_stack.md R330 to R337) -/

theorem test_ld_rr_n16 :
    runs (start [0x11, 0x34, 0x12] cpu0 [])
      { cpu0 with d := 0x12, e := 0x34, pc := 0xC003 } [] 12 = true := by decide

theorem test_ld_n16_sp :
    runs (start [0x08, 0x00, 0xD0] { cpu0 with sp := 0xBEEF } [])
      { cpu0 with sp := 0xBEEF, pc := 0xC003 } [(0xD000, 0xEF), (0xD001, 0xBE)] 20 = true := by decide

theorem test_ld_sp_hl :
    runs (start [0xF9] { cpu0 with h := 0xAB, l := 0xCD } [])
      { cpu0 with h := 0xAB, l := 0xCD, sp := 0xABCD, pc := 0xC001 } [] 8 = true := by decide

theorem test_ld_hl_sp_half :
    runs (start [0xF8, 0x01] { cpu0 with sp := 0x000F } [])
      { cpu0 with f := flags 0 0 1 0, h := 0x00, l := 0x10, sp := 0x000F, pc := 0xC002 } [] 12 = true := by decide

theorem test_ld_hl_sp_minus :
    runs (start [0xF8, 0xFF] { cpu0 with sp := 0x00FF } [])
      { cpu0 with f := flags 0 0 1 1, h := 0x00, l := 0xFE, sp := 0x00FF, pc := 0xC002 } [] 12 = true := by decide

theorem test_push_af :
    runs (start [0xF5] { cpu0 with a := 0x12, f := flags 1 0 1 1, sp := 0xD000 } [])
      { cpu0 with a := 0x12, f := flags 1 0 1 1, sp := 0xCFFE, pc := 0xC001 } [(0xCFFF, 0x12), (0xCFFE, 0xB0)] 16 = true := by decide

theorem test_push_bc_into_ie :
    runs (start [0xC5] { cpu0 with b := 0xAB, c := 0xCD, sp := 0x0001 } [])
      { cpu0 with b := 0xAB, c := 0xCD, sp := 0xFFFF, pc := 0xC001 } [(0xFFFF, 0xCD), (0x0000, 0x00)] 16 = true := by decide

theorem test_pop_rr :
    runs (start [0xD1] { cpu0 with sp := 0xD000 } [(0xD000, 0xCD), (0xD001, 0xAB)])
      { cpu0 with d := 0xAB, e := 0xCD, sp := 0xD002, pc := 0xC001 } [] 12 = true := by decide

theorem test_pop_af_drops_low_nibble :
    runs (start [0xF1] { cpu0 with sp := 0xD000 } [(0xD000, 0xFF), (0xD001, 0x34)])
      { cpu0 with a := 0x34, f := flags 1 1 1 1, sp := 0xD002, pc := 0xC001 } [] 12 = true := by decide

/-! ### 8-bit arithmetic and logic (95_test_vectors.md 3.3; 42_alu8.md R360 to R376) -/

theorem test_add_r :
    runs (start [0x80] { cpu0 with a := 0x80, b := 0x80 } [])
      { cpu0 with a := 0x00, f := flags 1 0 0 1, b := 0x80, pc := 0xC001 } [] 4 = true := by decide

theorem test_add_n :
    runs (start [0xC6, 0x01] { cpu0 with a := 0x0F } [])
      { cpu0 with a := 0x10, f := flags 0 0 1 0, pc := 0xC002 } [] 8 = true := by decide

theorem test_add_hl :
    runs (start [0x86] { cpu0 with a := 0x3A, h := 0xC1, l := 0x00 } [(0xC100, 0xC6)])
      { cpu0 with a := 0x00, f := flags 1 0 1 1, h := 0xC1, l := 0x00, pc := 0xC001 } [] 8 = true := by decide

theorem test_adc_n :
    runs (start [0xCE, 0x00] { cpu0 with a := 0xFF, f := flags 0 0 0 1 } [])
      { cpu0 with a := 0x00, f := flags 1 0 1 1, pc := 0xC002 } [] 8 = true := by decide

theorem test_adc_r :
    runs (start [0x8B] { cpu0 with a := 0x0E, f := flags 0 0 0 1, e := 0x01 } [])
      { cpu0 with a := 0x10, f := flags 0 0 1 0, e := 0x01, pc := 0xC001 } [] 4 = true := by decide

theorem test_adc_hl :
    runs (start [0x8E] { cpu0 with a := 0x01, f := flags 0 0 0 1, h := 0xC1, l := 0x00 } [(0xC100, 0x02)])
      { cpu0 with a := 0x04, f := flags 0 0 0 0, h := 0xC1, l := 0x00, pc := 0xC001 } [] 8 = true := by decide

theorem test_sub_n :
    runs (start [0xD6, 0x01] { cpu0 with a := 0x10 } [])
      { cpu0 with a := 0x0F, f := flags 0 1 1 0, pc := 0xC002 } [] 8 = true := by decide

theorem test_sub_r :
    runs (start [0x97] { cpu0 with a := 0x42 } [])
      { cpu0 with a := 0x00, f := flags 1 1 0 0, pc := 0xC001 } [] 4 = true := by decide

theorem test_sub_hl :
    runs (start [0x96] { cpu0 with a := 0x3E, h := 0xC1, l := 0x00 } [(0xC100, 0x40)])
      { cpu0 with a := 0xFE, f := flags 0 1 0 1, h := 0xC1, l := 0x00, pc := 0xC001 } [] 8 = true := by decide

theorem test_sbc_n :
    runs (start [0xDE, 0x00] { cpu0 with a := 0x00, f := flags 0 0 0 1 } [])
      { cpu0 with a := 0xFF, f := flags 0 1 1 1, pc := 0xC002 } [] 8 = true := by decide

theorem test_sbc_r :
    runs (start [0x98] { cpu0 with a := 0x01, f := flags 0 0 0 1, b := 0x00 } [])
      { cpu0 with a := 0x00, f := flags 1 1 0 0, b := 0x00, pc := 0xC001 } [] 4 = true := by decide

theorem test_sbc_hl :
    runs (start [0x9E] { cpu0 with a := 0x10, f := flags 0 0 0 1, h := 0xC1, l := 0x00 } [(0xC100, 0x0F)])
      { cpu0 with a := 0x00, f := flags 1 1 1 0, h := 0xC1, l := 0x00, pc := 0xC001 } [] 8 = true := by decide

theorem test_and_n :
    runs (start [0xE6, 0x0F] { cpu0 with a := 0xF0, f := flags 0 0 0 1 } [])
      { cpu0 with a := 0x00, f := flags 1 0 1 0, pc := 0xC002 } [] 8 = true := by decide

theorem test_and_r :
    runs (start [0xA5] { cpu0 with a := 0x5A, l := 0x3F } [])
      { cpu0 with a := 0x1A, f := flags 0 0 1 0, l := 0x3F, pc := 0xC001 } [] 4 = true := by decide

theorem test_and_hl :
    runs (start [0xA6] { cpu0 with a := 0xCC, h := 0xC1, l := 0x00 } [(0xC100, 0xAA)])
      { cpu0 with a := 0x88, f := flags 0 0 1 0, h := 0xC1, l := 0x00, pc := 0xC001 } [] 8 = true := by decide

theorem test_xor_r :
    runs (start [0xAF] { cpu0 with a := 0x5A, f := flags 0 1 1 1 } [])
      { cpu0 with a := 0x00, f := flags 1 0 0 0, pc := 0xC001 } [] 4 = true := by decide

theorem test_xor_n :
    runs (start [0xEE, 0x0F] { cpu0 with a := 0x5A } [])
      { cpu0 with a := 0x55, f := flags 0 0 0 0, pc := 0xC002 } [] 8 = true := by decide

theorem test_xor_hl :
    runs (start [0xAE] { cpu0 with a := 0xF0, h := 0xC1, l := 0x00 } [(0xC100, 0x3C)])
      { cpu0 with a := 0xCC, f := flags 0 0 0 0, h := 0xC1, l := 0x00, pc := 0xC001 } [] 8 = true := by decide

theorem test_or_n :
    runs (start [0xF6, 0x00] { cpu0 with a := 0x00 } [])
      { cpu0 with a := 0x00, f := flags 1 0 0 0, pc := 0xC002 } [] 8 = true := by decide

theorem test_or_r :
    runs (start [0xB1] { cpu0 with a := 0x50, f := flags 0 1 1 1, c := 0x05 } [])
      { cpu0 with a := 0x55, f := flags 0 0 0 0, c := 0x05, pc := 0xC001 } [] 4 = true := by decide

theorem test_or_hl :
    runs (start [0xB6] { cpu0 with a := 0x01, h := 0xC1, l := 0x00 } [(0xC100, 0x80)])
      { cpu0 with a := 0x81, f := flags 0 0 0 0, h := 0xC1, l := 0x00, pc := 0xC001 } [] 8 = true := by decide

theorem test_cp_n :
    runs (start [0xFE, 0x40] { cpu0 with a := 0x3C } [])
      { cpu0 with a := 0x3C, f := flags 0 1 0 1, pc := 0xC002 } [] 8 = true := by decide

theorem test_cp_r :
    runs (start [0xBA] { cpu0 with a := 0x3C, d := 0x3C } [])
      { cpu0 with a := 0x3C, f := flags 1 1 0 0, d := 0x3C, pc := 0xC001 } [] 4 = true := by decide

theorem test_cp_hl :
    runs (start [0xBE] { cpu0 with a := 0x10, h := 0xC1, l := 0x00 } [(0xC100, 0x01)])
      { cpu0 with a := 0x10, f := flags 0 1 1 0, h := 0xC1, l := 0x00, pc := 0xC001 } [] 8 = true := by decide

theorem test_inc_r :
    runs (start [0x3C] { cpu0 with a := 0xFF, f := flags 0 0 0 1 } [])
      { cpu0 with a := 0x00, f := flags 1 0 1 1, pc := 0xC001 } [] 4 = true := by decide

theorem test_dec_r :
    runs (start [0x0D] { cpu0 with f := flags 0 0 0 1, c := 0x01 } [])
      { cpu0 with f := flags 1 1 0 1, c := 0x00, pc := 0xC001 } [] 4 = true := by decide

theorem test_dec_r_half :
    runs (start [0x0D] { cpu0 with c := 0x10 } [])
      { cpu0 with f := flags 0 1 1 0, c := 0x0F, pc := 0xC001 } [] 4 = true := by decide

theorem test_inc_hl :
    runs (start [0x34] { cpu0 with h := 0xC2, l := 0x00 } [(0xC200, 0xFF)])
      { cpu0 with f := flags 1 0 1 0, h := 0xC2, l := 0x00, pc := 0xC001 } [(0xC200, 0x00)] 12 = true := by decide

theorem test_dec_hl :
    runs (start [0x35] { cpu0 with h := 0xC2, l := 0x00 } [])
      { cpu0 with f := flags 0 1 1 0, h := 0xC2, l := 0x00, pc := 0xC001 } [(0xC200, 0xFF)] 12 = true := by decide

theorem test_daa_after_add :
    runs (start [0x27] { cpu0 with a := 0x9A } [])
      { cpu0 with a := 0x00, f := flags 1 0 0 1, pc := 0xC001 } [] 4 = true := by decide

theorem test_daa_after_sub :
    runs (start [0x27] { cpu0 with a := 0x00, f := flags 0 1 1 1 } [])
      { cpu0 with a := 0x9A, f := flags 0 1 0 1, pc := 0xC001 } [] 4 = true := by decide

theorem test_cpl :
    runs (start [0x2F] { cpu0 with a := 0x35 } [])
      { cpu0 with a := 0xCA, f := flags 0 1 1 0, pc := 0xC001 } [] 4 = true := by decide

theorem test_scf :
    runs (start [0x37] { cpu0 with f := flags 1 1 1 0 } [])
      { cpu0 with f := flags 1 0 0 1, pc := 0xC001 } [] 4 = true := by decide

theorem test_ccf :
    runs (start [0x3F] { cpu0 with f := flags 1 0 0 1 } [])
      { cpu0 with f := flags 1 0 0 0, pc := 0xC001 } [] 4 = true := by decide

/-! ### 16-bit arithmetic (95_test_vectors.md 3.4; 43_alu16.md R400 to R403) -/

theorem test_add_hl_bc :
    runs (start [0x09] { cpu0 with b := 0x06, c := 0x05, h := 0x8A, l := 0x23 } [])
      { cpu0 with f := flags 0 0 1 0, b := 0x06, c := 0x05, h := 0x90, l := 0x28, pc := 0xC001 } [] 8 = true := by decide

theorem test_add_hl_hl :
    runs (start [0x29] { cpu0 with f := flags 1 0 0 0, h := 0x8A, l := 0x23 } [])
      { cpu0 with f := flags 1 0 1 1, h := 0x14, l := 0x46, pc := 0xC001 } [] 8 = true := by decide

theorem test_inc_rr :
    runs (start [0x03] { cpu0 with b := 0xFF, c := 0xFF } [])
      { cpu0 with b := 0x00, c := 0x00, pc := 0xC001 } [] 8 = true := by decide

theorem test_dec_rr :
    runs (start [0x3B] { cpu0 with sp := 0x0000 } [])
      { cpu0 with sp := 0xFFFF, pc := 0xC001 } [] 8 = true := by decide

theorem test_add_sp :
    runs (start [0xE8, 0x01] { cpu0 with sp := 0xFFFF } [])
      { cpu0 with f := flags 0 0 1 1, sp := 0x0000, pc := 0xC002 } [] 16 = true := by decide

theorem test_add_sp_minus :
    runs (start [0xE8, 0x80] { cpu0 with sp := 0x0000 } [])
      { cpu0 with f := flags 0 0 0 0, sp := 0xFF80, pc := 0xC002 } [] 16 = true := by decide

/-! ### Rotates and shifts (95_test_vectors.md 3.5; 44_rotate_shift.md R420 to R432) -/

theorem test_rlca :
    runs (start [0x07] { cpu0 with a := 0x85 } [])
      { cpu0 with a := 0x0B, f := flags 0 0 0 1, pc := 0xC001 } [] 4 = true := by decide

theorem test_rrca :
    runs (start [0x0F] { cpu0 with a := 0x01 } [])
      { cpu0 with a := 0x80, f := flags 0 0 0 1, pc := 0xC001 } [] 4 = true := by decide

theorem test_rla_forces_z :
    runs (start [0x17] { cpu0 with a := 0x80 } [])
      { cpu0 with a := 0x00, f := flags 0 0 0 1, pc := 0xC001 } [] 4 = true := by decide

theorem test_rra :
    runs (start [0x1F] { cpu0 with a := 0x01, f := flags 0 0 0 1 } [])
      { cpu0 with a := 0x80, f := flags 0 0 0 1, pc := 0xC001 } [] 4 = true := by decide

theorem test_rlc_r :
    runs (start [0xCB, 0x00] { cpu0 with b := 0x80 } [])
      { cpu0 with f := flags 0 0 0 1, b := 0x01, pc := 0xC002 } [] 8 = true := by decide

theorem test_rlc_hl :
    runs (start [0xCB, 0x06] { cpu0 with h := 0xC3, l := 0x00 } [(0xC300, 0x80)])
      { cpu0 with f := flags 0 0 0 1, h := 0xC3, l := 0x00, pc := 0xC002 } [(0xC300, 0x01)] 16 = true := by decide

theorem test_rrc_r :
    runs (start [0xCB, 0x08] { cpu0 with b := 0x01 } [])
      { cpu0 with f := flags 0 0 0 1, b := 0x80, pc := 0xC002 } [] 8 = true := by decide

theorem test_rrc_hl :
    runs (start [0xCB, 0x0E] { cpu0 with h := 0xC3, l := 0x00 } [(0xC300, 0x02)])
      { cpu0 with f := flags 0 0 0 0, h := 0xC3, l := 0x00, pc := 0xC002 } [(0xC300, 0x01)] 16 = true := by decide

theorem test_rl_r :
    runs (start [0xCB, 0x11] { cpu0 with f := flags 0 0 0 1, c := 0x80 } [])
      { cpu0 with f := flags 0 0 0 1, c := 0x01, pc := 0xC002 } [] 8 = true := by decide

theorem test_rl_hl :
    runs (start [0xCB, 0x16] { cpu0 with h := 0xC3, l := 0x00 } [(0xC300, 0x80)])
      { cpu0 with f := flags 1 0 0 1, h := 0xC3, l := 0x00, pc := 0xC002 } [(0xC300, 0x00)] 16 = true := by decide

theorem test_rr_r :
    runs (start [0xCB, 0x1A] { cpu0 with d := 0x01 } [])
      { cpu0 with f := flags 1 0 0 1, d := 0x00, pc := 0xC002 } [] 8 = true := by decide

theorem test_rr_hl :
    runs (start [0xCB, 0x1E] { cpu0 with f := flags 0 0 0 1, h := 0xC3, l := 0x00 } [(0xC300, 0x02)])
      { cpu0 with f := flags 0 0 0 0, h := 0xC3, l := 0x00, pc := 0xC002 } [(0xC300, 0x81)] 16 = true := by decide

theorem test_sla_r :
    runs (start [0xCB, 0x23] { cpu0 with e := 0x80 } [])
      { cpu0 with f := flags 1 0 0 1, e := 0x00, pc := 0xC002 } [] 8 = true := by decide

theorem test_sla_hl :
    runs (start [0xCB, 0x26] { cpu0 with f := flags 0 0 0 1, h := 0xC3, l := 0x00 } [(0xC300, 0x41)])
      { cpu0 with f := flags 0 0 0 0, h := 0xC3, l := 0x00, pc := 0xC002 } [(0xC300, 0x82)] 16 = true := by decide

theorem test_sra_r :
    runs (start [0xCB, 0x2C] { cpu0 with h := 0x81 } [])
      { cpu0 with f := flags 0 0 0 1, h := 0xC0, pc := 0xC002 } [] 8 = true := by decide

theorem test_sra_hl :
    runs (start [0xCB, 0x2E] { cpu0 with h := 0xC3, l := 0x00 } [(0xC300, 0x7E)])
      { cpu0 with f := flags 0 0 0 0, h := 0xC3, l := 0x00, pc := 0xC002 } [(0xC300, 0x3F)] 16 = true := by decide

theorem test_swap_r :
    runs (start [0xCB, 0x37] { cpu0 with a := 0xF0, f := flags 0 0 0 1 } [])
      { cpu0 with a := 0x0F, f := flags 0 0 0 0, pc := 0xC002 } [] 8 = true := by decide

theorem test_swap_hl :
    runs (start [0xCB, 0x36] { cpu0 with h := 0xC3, l := 0x00 } [(0xC300, 0x12)])
      { cpu0 with f := flags 0 0 0 0, h := 0xC3, l := 0x00, pc := 0xC002 } [(0xC300, 0x21)] 16 = true := by decide

theorem test_srl_r :
    runs (start [0xCB, 0x3D] { cpu0 with l := 0x01 } [])
      { cpu0 with f := flags 1 0 0 1, l := 0x00, pc := 0xC002 } [] 8 = true := by decide

theorem test_srl_hl :
    runs (start [0xCB, 0x3E] { cpu0 with f := flags 0 0 0 1, h := 0xC3, l := 0x00 } [(0xC300, 0x80)])
      { cpu0 with f := flags 0 0 0 0, h := 0xC3, l := 0x00, pc := 0xC002 } [(0xC300, 0x40)] 16 = true := by decide

/-! ### Bit operations (95_test_vectors.md 3.6; 45_bit.md R450 to R452) -/

theorem test_bit_r :
    runs (start [0xCB, 0x7F] { cpu0 with a := 0x80, f := flags 0 0 0 1 } [])
      { cpu0 with a := 0x80, f := flags 0 0 1 1, pc := 0xC002 } [] 8 = true := by decide

theorem test_bit_hl :
    runs (start [0xCB, 0x46] { cpu0 with h := 0xC3, l := 0x00 } [(0xC300, 0xFE)])
      { cpu0 with f := flags 1 0 1 0, h := 0xC3, l := 0x00, pc := 0xC002 } [(0xC300, 0xFE)] 12 = true := by decide

theorem test_res_r :
    runs (start [0xCB, 0x87] { cpu0 with a := 0xFF } [])
      { cpu0 with a := 0xFE, pc := 0xC002 } [] 8 = true := by decide

theorem test_res_hl :
    runs (start [0xCB, 0xBE] { cpu0 with f := flags 0 1 0 1, h := 0xC3, l := 0x00 } [(0xC300, 0x81)])
      { cpu0 with f := flags 0 1 0 1, h := 0xC3, l := 0x00, pc := 0xC002 } [(0xC300, 0x01)] 16 = true := by decide

theorem test_set_r :
    runs (start [0xCB, 0xD8] { cpu0 with b := 0x01 } [])
      { cpu0 with b := 0x09, pc := 0xC002 } [] 8 = true := by decide

theorem test_set_hl :
    runs (start [0xCB, 0xFE] { cpu0 with h := 0xC3, l := 0x00 } [])
      { cpu0 with h := 0xC3, l := 0x00, pc := 0xC002 } [(0xC300, 0x80)] 16 = true := by decide

/-! ### Control transfer (95_test_vectors.md 3.7; 46_control.md R470 to R481) -/

theorem test_jp :
    runs (start [0xC3, 0x34, 0x12] cpu0 [])
      { cpu0 with pc := 0x1234 } [] 16 = true := by decide

theorem test_jp_cc_taken :
    runs (start [0xC2, 0x00, 0x20] cpu0 [])
      { cpu0 with pc := 0x2000 } [] 16 = true := by decide

theorem test_jp_cc_not_taken :
    runs (start [0xC2, 0x00, 0x20] { cpu0 with f := flags 1 0 0 0 } [])
      { cpu0 with f := flags 1 0 0 0, pc := 0xC003 } [] 12 = true := by decide

theorem test_jp_hl :
    runs (start [0xE9] { cpu0 with h := 0x40, l := 0x00 } [])
      { cpu0 with h := 0x40, l := 0x00, pc := 0x4000 } [] 4 = true := by decide

theorem test_jr_back :
    runs (start [0x18, 0x80] cpu0 [])
      { cpu0 with pc := 0xBF82 } [] 12 = true := by decide

theorem test_jr_forward :
    runs (start [0x18, 0x7F] cpu0 [])
      { cpu0 with pc := 0xC081 } [] 12 = true := by decide

theorem test_jr_cc_taken :
    runs (start [0x28, 0x10] { cpu0 with f := flags 1 0 0 0 } [])
      { cpu0 with f := flags 1 0 0 0, pc := 0xC012 } [] 12 = true := by decide

theorem test_jr_cc_not_taken :
    runs (start [0x38, 0x10] cpu0 [])
      { cpu0 with pc := 0xC002 } [] 8 = true := by decide

theorem test_call :
    runs (start [0xCD, 0x00, 0x40] { cpu0 with sp := 0xD000 } [])
      { cpu0 with sp := 0xCFFE, pc := 0x4000 } [(0xCFFF, 0xC0), (0xCFFE, 0x03)] 24 = true := by decide

theorem test_call_cc_taken :
    runs (start [0xD4, 0x00, 0x40] { cpu0 with sp := 0xD000 } [])
      { cpu0 with sp := 0xCFFE, pc := 0x4000 } [(0xCFFF, 0xC0), (0xCFFE, 0x03)] 24 = true := by decide

theorem test_call_cc_not_taken :
    runs (start [0xDC, 0x00, 0x40] { cpu0 with sp := 0xD000 } [])
      { cpu0 with sp := 0xD000, pc := 0xC003 } [(0xCFFF, 0x00), (0xCFFE, 0x00)] 12 = true := by decide

theorem test_ret :
    runs (start [0xC9] { cpu0 with sp := 0xD000 } [(0xD000, 0x34), (0xD001, 0x12)])
      { cpu0 with sp := 0xD002, pc := 0x1234 } [] 16 = true := by decide

theorem test_ret_cc_taken :
    runs (start [0xD0] { cpu0 with sp := 0xD000 } [(0xD000, 0x34), (0xD001, 0x12)])
      { cpu0 with sp := 0xD002, pc := 0x1234 } [] 20 = true := by decide

theorem test_ret_cc_not_taken :
    runs (start [0xD0] { cpu0 with f := flags 0 0 0 1, sp := 0xD000 } [(0xD000, 0x34), (0xD001, 0x12)])
      { cpu0 with f := flags 0 0 0 1, sp := 0xD000, pc := 0xC001 } [] 8 = true := by decide

theorem test_reti :
    runs (start [0xD9] { cpu0 with sp := 0xD000 } [(0xD000, 0x34), (0xD001, 0x12)])
      { cpu0 with sp := 0xD002, pc := 0x1234, ime := true } [] 16 = true := by decide

theorem test_rst :
    runs (start [0xFF] { cpu0 with sp := 0xD000 } [])
      { cpu0 with sp := 0xCFFE, pc := 0x0038 } [(0xCFFF, 0xC0), (0xCFFE, 0x01)] 16 = true := by decide

/-! ### System instructions (95_test_vectors.md 3.8; 47_system.md R500 to R505) -/

theorem test_nop :
    runs (start [0x00] cpu0 [])
      { cpu0 with pc := 0xC001 } [] 4 = true := by decide

theorem test_halt :
    runs (start [0x76] cpu0 [])
      { cpu0 with pc := 0xC001, halted := true } [] 4 = true := by decide

theorem test_ei :
    runs (start [0xFB] cpu0 [])
      { cpu0 with pc := 0xC001, eiPending := true } [] 4 = true := by decide

theorem test_di :
    runs (start [0xF3] { cpu0 with ime := true } [])
      { cpu0 with pc := 0xC001, ime := false } [] 4 = true := by decide

/-! ### PREFIX CB alone, STOP and the undefined opcodes (47_system.md R501, R503, R506; 60_exceptions.md R610) -/

/-- PREFIX CB fetches 0x37 at PC and swaps A, in one slot. -/
theorem test_prefix_cb_runs_the_second_byte :
    (match exec .prefixCb (start [0x37] { cpu0 with a := 0xF1 } []) with
      | .next t => t.cpu.a == 0x1F && t.cpu.pc == 0xC001 && t.t == 4
      | .fault _ => false
      | .refused _ => false) = true := by decide

/-- What a step records as FAULT, with PC and T. -/
def faults (bytes : List Byte) (kind : FatalKind) (op : Byte) : Bool :=
  match step (start bytes cpu0 []) with
  | .next t =>
    t.fault == some { kind := kind, opcode := op, pc := 0xC000 } && decide (t.cpu = { cpu0 with pc := 0xC001 }) && t.t == 4
  | .fault _ => false
  | .refused _ => false

theorem test_stop_is_fatal : faults [0x10, 0x00] .stop 0x10 = true := by decide
theorem test_undefined_opcode_is_fatal : faults [0xDD] .illegalOpcode 0xDD = true := by decide

/-! ### Interrupts and HALT (60_exceptions.md R601 to R604, R617) -/

/-- TIMER pending with IME: the entry takes 24 cycles and the handler's first instruction (ROM byte 0x00, NOP) 4 more. -/
theorem test_timer_interrupt_entry :
    (match step { start [0x00] { cpu0 with sp := 0xD000, ime := true } [(0xFFFF, 0x04)] with
        int := { request := 0x05, enable := 0x04 } } with
      | .next t =>
        t.cpu.pc == 0x0051 && t.cpu.sp == 0xCFFE && !t.cpu.ime && t.t == 28 && t.int.request == 0x01 &&
          busRead t 0xCFFF == 0xC0 && busRead t 0xCFFE == 0x00
      | .fault _ => false
      | .refused _ => false) = true := by decide

/-- Halted with a pending interrupt and IME 0: the CPU leaves HALT and runs the next instruction with no entry. -/
theorem test_halt_ends_without_entry :
    runs { start [0x3C] { cpu0 with halted := true } [] with int := { request := 0x01, enable := 0x01 } }
      { cpu0 with a := 0x01, pc := 0xC001 } [] 4 = true := by decide

/-! ## Devices (95_test_vectors.md sections 4 to 11) -/

/-- Byte 0 of a DMA from 0xC100 is in OAM at the end of the first slot after the write. -/
theorem test_dma_first_byte :
    let t := cycle (busWrite (start [] cpu0 [(0xC100, 0x5A)]) 0xFF46 0xC1)
    t.mem.oam.read 0 = 0x5A ∧ t.dma.position = 1 ∧ busRead t 0xFF46 = 0xC1 := by decide

/-- TAC = 0x05, TIMA = 0xFF, TMA = 0xF0, divider 12: the slot reloads TIMA and requests TIMER (61_timer.md R652). -/
theorem test_timer_overflow :
    let t := cycle { State.reset with timer := { divider := 12, tima := 0xFF, tma := 0xF0, tac := 5 } }
    t.timer.tima = 0xF0 ∧ t.int.request = 0x05 ∧ t.timer.divider = 16 := by decide

/-- A color machine. -/
def gbc : State := State.resetWith true Memories.empty (Cart.fresh .plain false false 2 0 (Rtc.fresh 0)) 0

/-- HDMA5 = 0x83, one block, then a write of 0x00: it reads 0x03, 0x02, 0x82. -/
theorem test_hdma_cancel :
    let a := busWrite gbc 0xFF55 0x83
    let b := hdmaBlock a
    busRead a 0xFF55 = 0x03 ∧ busRead b 0xFF55 = 0x02 ∧ busRead (busWrite b 0xFF55 0x00) 0xFF55 = 0x82 := by decide

/-- A cartridge of a mapper with so many banks and so much RAM. -/
def cartOf (m : Mapper) (banks ram : Nat) : State :=
  { State.reset with cart := Cart.fresh m false (m == .mbc3) banks ram (Rtc.fresh 0) }

/-- The eight-bank MBC1 and the four-bank MBC5 of section 9: the bank after each list of writes. -/
def bankAfter (s : State) (writes : List (Word × Byte)) : Nat :=
  (writes.foldl (fun u p => busWrite u p.1 p.2) s).cart.romBankAt4000

theorem test_mbc1_banks :
    bankAfter (cartOf .mbc1 8 0) [] = 1 ∧ bankAfter (cartOf .mbc1 8 0) [(0x2000, 0x00)] = 1 ∧
    bankAfter (cartOf .mbc1 8 0) [(0x2000, 0x1F)] = 7 ∧ bankAfter (cartOf .mbc1 8 0) [(0x2000, 0x00), (0x4000, 0x01)] = 1 ∧
    bankAfter (cartOf .mbc1 64 0) [(0x2000, 0x01), (0x4000, 0x01)] = 33 ∧
    bankAfter (cartOf .mbc1 64 0) [(0x2000, 0x01), (0x4000, 0x01), (0x6000, 0x01)] = 1 := by decide

theorem test_mbc5_banks :
    bankAfter (cartOf .mbc5 4 0) [(0x2000, 0x00)] = 0 ∧ bankAfter (cartOf .mbc5 4 0) [(0x2000, 0x06)] = 2 ∧
    bankAfter (cartOf .mbc5 4 0) [(0x2000, 0x06), (0x3000, 0x01)] = 2 := by decide

/-- MBC2: RAM reads a nibble under 0xF0, mirrored; 0x2100 enables the RAM and 0x2000 selects the bank. -/
theorem test_mbc2 :
    let s := busWrite (busWrite (busWrite (cartOf .mbc2 4 0) 0x2100 0x0A) 0xA000 0x05) 0x2000 0x03
    busRead s 0xA000 = 0xF5 ∧ busRead s 0xA200 = 0xF5 ∧ s.cart.romBank = 3 ∧ s.cart.dirty = true := by decide

/-- MBC3: S = 30 written at wall 7, latched at wall 107: logical time 130. -/
theorem test_rtc_latch :
    let s := { cartOf .mbc3 4 0 with io := { State.reset.io with wallQueue := [7, 107] } }
    let t := [(0x0000, 0x0A), (0x4000, 0x08), (0xA000, 30), (0x6000, 0x00), (0x6000, 0x01)].foldl
      (fun u (p : Word × Byte) => busWrite u p.1 p.2) s
    busRead t 0xA000 = 10 ∧ t.cart.rtc.m = 2 ∧ t.cart.rtc.h = 0 ∧ t.cart.rtc.base = -23 := by decide

/-- Channel 2 triggered at period 0x700: NR52 reads 0xF2, the registers read under their masks. -/
theorem test_spu_trigger :
    let t := [(0xFF16, 0x80), (0xFF17, 0xF0), (0xFF18, 0x00), (0xFF19, 0x87)].foldl
      (fun u (p : Word × Byte) => busWrite u p.1 p.2) State.reset
    busRead t 0xFF26 = 0xF2 ∧ t.spu.ch2.freqTimer = 512 ∧ t.spu.ch2.env.volume = 15 ∧ t.spu.ch2.amplitude = 15 ∧
    busRead t 0xFF16 = 0xBF ∧ busRead t 0xFF17 = 0xF0 ∧ busRead t 0xFF18 = 0xFF ∧ busRead t 0xFF19 = 0xBF := by decide

theorem test_spu_master_off :
    let t := busWrite (busWrite State.reset 0xFF26 0x00) 0xFF24 0x77
    busRead t 0xFF26 = 0x70 ∧ busRead t 0xFF24 = 0x00 ∧ busRead (busWrite t 0xFF30 0xA5) 0xFF30 = 0xA5 := by decide

/-- P1 with Down and A pressed. -/
theorem test_p1 :
    let s := setButton .a true (setButton .down true State.reset)
    busRead s 0xFF00 = 0xC6 ∧ busRead (busWrite s 0xFF00 0x20) 0xFF00 = 0xE7 ∧
    busRead (busWrite s 0xFF00 0x10) 0xFF00 = 0xDE ∧ busRead (busWrite s 0xFF00 0x30) 0xFF00 = 0xFF := by decide

/-- `withFetchWord` places the table's word where the step fetches it: ADD A,n8 and SWAP A. -/
theorem test_withFetchWord :
    (match step (State.reset.withFetchWord 16 0x00C6) with
      | .next t => t.cpu.a == 0x01 && t.cpu.pc == 0x0102
      | .fault _ => false
      | .refused _ => false) = true ∧
    (match step (State.reset.withFetchWord 16 0xCB37) with
      | .next t => t.cpu.a == 0x10 && t.cpu.pc == 0x0102
      | .fault _ => false
      | .refused _ => false) = true ∧
    decodeTableWord 16 0xCB37 = some (.swapR .a) := by decide

/-! ## Witnesses: for every statement with hypotheses, states and operands that meet all of them -/

/-- ADD A,n8 before a NOP, and nothing else going on. -/
def ready : State := start [0xC6, 0x01] cpu0 []

theorem witness_ready : ready.Ready := by constructor <;> decide

/-- The machine of the MBC1 tests with 8 KiB of RAM, enabled. -/
def mbc1Ram : State := { cartOf .mbc1 8 8192 with cart := { (cartOf .mbc1 8 8192).cart with ramEnable := true } }

theorem witness_DecodeOfEncode :
    (Instr.ldRN .a 0x45).wf = true ∧ Instr.ldRN .a 0x45 ≠ .prefixCb ∧
    (Instr.illegal 0xFD).wf = true ∧ Instr.illegal 0xFD ≠ .prefixCb := by decide

theorem witness_DecodeIsOnto :
    decode [0xCB, 0xFE, 0x00] = .ok (.setHl 7, [0x00]) ∧ (0xD3 : Byte) ∈ illegalOpcodes ∧ (0xCB : Byte) ∉ illegalOpcodes :=
  ⟨rfl, by decide, by decide⟩

theorem witness_StepRunsDecoded :
    ready.fault = none ∧ (boundary ready).cpu.halted = false ∧ (Instr.addN 0x01).wf = true ∧ Instr.addN 0x01 ≠ .prefixCb ∧
    ∀ k, k < (encode (.addN 0x01)).length →
      busRead (repeatN cycle (k + 1) (boundary ready)) ((boundary ready).cpu.pc + BitVec.ofNat 16 k)
        = (encode (.addN 0x01)).getD k 0 := by decide

theorem witness_EveryInstructionCompletes : Instr.nop ≠ .prefixCb ∧ State.reset.gbcMode = false := by decide

/-- LD (BC),A with BC = 0xDFFF: the last cell of WRAM; and a zero-page cell beside it. -/
theorem witness_StoreByte :
    memCell (start [] { cpu0 with b := 0xDF, c := 0xFF } []) (StoreForm.bc.address { cpu0 with b := 0xDF, c := 0xFF })
      = some (.wram 0x1FFF) ∧
    (MemCell.wram 0x1FFF).writable State.reset.cart = true ∧
    memCell (start [] { cpu0 with b := 0xDF, c := 0xFF } []) 0xFF80 = some (.zp 0) ∧
    (MemCell.zp 0).quiet = true ∧ MemCell.zp 0 ≠ .wram 0x1FFF := by decide +kernel

/-- The last cells of OAM and of external RAM; and for each kind of write that changes nothing, the ends of its range. -/
theorem witness_BusWriteFrame :
    (memCell State.reset 0xFE9F = some (.oam 0x9F) ∧ (MemCell.oam 0x9F).writable State.reset.cart = true ∧
      ∀ i, MemCell.oam 0x9F ≠ .cartRam i ∧ MemCell.oam 0x9F ≠ .mbc2Ram i) ∧
    (memCell mbc1Ram 0xBFFF = some (.cartRam 0x1FFF) ∧ (MemCell.cartRam 0x1FFF).writable mbc1Ram.cart = true) ∧
    ((0xA000 ≤ (0xA000 : Word).toNat ∧ (0xBFFF : Word).toNat < 0xC000) ∧ (cartOf .mbc1 8 8192).cart.ramEnable = false) ∧
    (State.reset.cart.mapper ≠ .mbc2 ∧ State.reset.cart.mapper ≠ .mbc3 ∧ State.reset.cart.ramSize = 0) ∧
    (0xFEA0 ≤ (0xFEA0 : Word).toNat ∧ (0xFEFF : Word).toNat < 0xFF00) ∧
    ((0x7FFF : Word).toNat < 0x8000 ∧ State.reset.cart.mapper = .plain) :=
  ⟨⟨by decide, by decide, fun _ => ⟨nofun, nofun⟩⟩, by decide, by decide, by decide, by decide, by decide⟩

/-- An MBC3 with RAM and a clock, at the ends of the ranges of ram_sel that select neither; one without a clock whose ram_sel
selects its first register; and one without RAM. -/
theorem witness_BusWriteFrame_mbc3_absent :
    (∀ n : Fin 4, let s := { cartOf .mbc3 4 0x8000 with
        cart := { (cartOf .mbc3 4 0x8000).cart with ramSel := [4, 7, 13, 15].getD n 0 } }
      s.cart.mapper = .mbc3 ∧ 3 < s.cart.ramSel.toNat ∧
        ¬(s.cart.hasRtc = true ∧ 8 ≤ s.cart.ramSel.toNat ∧ s.cart.ramSel.toNat ≤ 12)) ∧
    (let s := { cartOf .mbc3 4 0x8000 with cart := { (cartOf .mbc3 4 0x8000).cart with ramSel := 8, hasRtc := false } }
     3 < s.cart.ramSel.toNat ∧ ¬(s.cart.hasRtc = true ∧ 8 ≤ s.cart.ramSel.toNat ∧ s.cart.ramSel.toNat ≤ 12)) ∧
    ((cartOf .mbc3 4 0).cart.ramSize = 0 ∧ ¬8 ≤ (cartOf .mbc3 4 0).cart.ramSel.toNat) := by decide

/-- A WRAM bank out of view keeps its byte: with bank 1 in view, a store to 0xD000 leaves bank 2's first byte. -/
theorem witness_BusWriteFrame_out_of_view :
    memCell gbc 0xD000 = some (.wram 0x1000) ∧ (∀ a : Word, a = 0xD000 ∨ a = 0xF000 → memCell gbc a ≠ some (.wram 0x2000)) ∧
    MemCell.wram 0x2000 ≠ .wram 0x1000 := by
  refine ⟨by decide +kernel, ?_, by decide⟩
  rintro a (rfl | rfl) <;> decide

/-- A push with SP = 0x0001: the high byte to 0x0000 is a mapper command, so the witness takes SP = 0xC002; and an SP at
which both bytes fall on one cell. -/
theorem witness_StoreWord :
    (memCell ready (0xC002 - 1) = some (.wram 1) ∧ memCell ready (0xC002 - 2) = some (.wram 0) ∧
      (MemCell.wram 1).quiet = true ∧ (MemCell.wram 1).writable ready.cart = true ∧
      memCell ready 0xFFFE = some (.zp 126) ∧ MemCell.zp 126 ≠ .wram 1 ∧ MemCell.zp 126 ≠ .wram 0) ∧
    (let u := { mbc1Ram with cart := { mbc1Ram.cart with ramSize := 1 } }
     memCell u (0xA002 - 1) = some (.cartRam 0) ∧ memCell u (0xA002 - 2) = some (.cartRam 0) ∧
     (MemCell.cartRam 0).quiet = true ∧ (MemCell.cartRam 0).writable u.cart = true) := by decide +kernel

/-- 99 + 99 with a carry, and 0 - 99 with a borrow. -/
theorem witness_DecimalAdjust :
    ((start [] { cpu0 with a := 0x99 } []).cpu.a = bcd 99 ∧
      ∃ u, exec (.addN (bcd 99)) (start [] { cpu0 with a := 0x99 } []) = .next u) ∧
    ((start [] cpu0 []).cpu.a = bcd 0 ∧ ∃ u, exec (.subN (bcd 99)) (start [] cpu0 []) = .next u) ∧
    (start [] { cpu0 with f := flags 0 1 0 0 } []).cpu.f.n = true ∧ (start [] cpu0 []).cpu.f.n = false :=
  ⟨⟨by decide, _, rfl⟩, ⟨by decide, _, rfl⟩, by decide, by decide⟩

theorem witness_FatalInstructions :
    ((start [0xFD] cpu0 []).Ready ∧ busRead (cycle (start [0xFD] cpu0 [])) 0xC000 ∈ illegalOpcodes) ∧
    ((start [0x10] cpu0 []).Ready ∧ busRead (cycle (start [0x10] cpu0 [])) 0xC000 = 0x10) ∧
    ∃ t, exec .stop ready = .next t :=
  ⟨⟨by constructor <;> decide, by decide⟩, ⟨by constructor <;> decide, by decide⟩, _, rfl⟩

/-- After the fetch of 0xD3 the machine has faulted, and the step after that answers the fault. -/
theorem witness_StopsOnlyOnFault :
    (∃ t, step (start [0xD3] cpu0 []) = .next t ∧ t.fault ≠ none) ∧
    ∃ s f, s.fault ≠ none ∧ step s = .fault f := by
  refine ⟨⟨_, rfl, ?_⟩, ⟨raiseFatal .stop 0x10 ready, _, ?_, rfl⟩⟩ <;> decide

theorem witness_ControlBitWriters :
    (∃ t, exec .nop ready = .next t) ∧ (∃ t, exec .reti ready = .next t) ∧ (∃ t, exec .ei ready = .next t) ∧
    (∃ t, exec .di ready = .next t) ∧ ∃ t, exec .halt ready = .next t :=
  ⟨⟨_, rfl⟩, ⟨_, rfl⟩, ⟨_, rfl⟩, ⟨_, rfl⟩, _, rfl⟩

theorem witness_FlagAndSpWriters :
    (∃ t, exec (.ldRR .a .b) ready = .next t) ∧
    writesZ (.ldRR .a .b) = false ∧ writesN .daa = false ∧ writesH (.ldRR .a .b) = false ∧ writesC (.incR .a) = false ∧
    writesSp (.incRr .bc) = false :=
  ⟨⟨_, rfl⟩, by decide, by decide, by decide, by decide, by decide⟩

theorem witness_StepProgress : ∃ t, step ready = .next t := ⟨_, rfl⟩

theorem witness_RunForReachesTarget : (runFor 1 ready).2.fault = none := by decide

/-- 32 KiB of zero bytes parse, and load with empty memories. -/
theorem witness_ResetInvariant :
    parseCart (List.replicate 0x8000 0) = .ok State.reset.cart ∧
    ({ Memories.empty with rom := [] } : Memories).Inv State.reset.cart ∧
    ∃ s, load (some (List.replicate 0x8000 0)) none Memories.empty 0 = .ok s := by
  have h : parseCart (List.replicate 0x8000 0) = .ok State.reset.cart := by
    simp [parseCart, maxImage, mapperOf, romBanksOf, ramSizeOf, State.reset, State.resetWith]
  refine ⟨h, ?_, ?_⟩
  · constructor <;> decide
  · simp only [load, h]
    exact ⟨_, rfl⟩

/-- A machine that no run from reset reaches: LY at its last value, a DMA at its last byte, HDMA with 128 blocks left. -/
theorem witness_StepKeepsInvariant :
    let s := { ready with
      ppu := { Ppu.reset with ly := 153, linePosition := 455 },
      dma := { running := true, src := 0xC000, position := 159, phase := 3, last := 0xC0 },
      hdma := { gbc.hdma with remaining := 128, active := true, hblank := true } }
    s.Inv ∧ ∃ t, step s = .next t := by
  refine ⟨?_, _, rfl⟩
  constructor
  · constructor <;> decide
  all_goals first | decide | (constructor <;> decide)

/-- VBLANK over INPUT, and INPUT alone. -/
theorem witness_InterruptEntry :
    (let s := { ready with cpu := { cpu0 with ime := true }, int := { request := 0x11, enable := 0xFF } }
     s.cpu.ime = true ∧ (pending s).getLsbD 0 = true ∧ ∀ j : Fin 5, j < 0 → (pending s).getLsbD j = false) ∧
    (let s := { ready with cpu := { cpu0 with ime := true }, int := { request := 0x10, enable := 0xFF } }
     s.cpu.ime = true ∧ (pending s).getLsbD 4 = true ∧ ∀ j : Fin 5, j < 4 → (pending s).getLsbD j = false) := by decide

theorem witness_HaltAndEiDelay :
    (let s := { ready with cpu := { cpu0 with halted := true } }
     s.fault = none ∧ s.cpu.halted = true ∧ s.cpu.eiPending = false ∧ pending s = 0) ∧
    (let s := { ready with cpu := { cpu0 with halted := true }, int := { request := 0x10, enable := 0x10 } }
     s.fault = none ∧ s.cpu.halted = true ∧ s.cpu.eiPending = false ∧ pending s ≠ 0 ∧ s.cpu.ime = false) ∧
    (let s := { ready with cpu := { cpu0 with eiPending := true }, int := { request := 0x10, enable := 0x10 } }
     s.cpu.ime = false ∧ s.cpu.eiPending = true ∧ pending s ≠ 0) := by decide

/-- Divider 0x0400, a multiple of 16: the timer is started, TMA 0. The one-cycle clauses: no tick, a tick at 0xFE, one at
0xFF. -/
theorem witness_TimerTicks :
    (let s := { ready with timer := { divider := 0x0400, tima := 0xFF, tma := 0, tac := 5 } }
     s.timer.started = true ∧ s.timer.tma = 0 ∧ s.timer.divider.toNat % s.timer.period = 0) ∧
    (let ticks (tm : Timer) := tm.tac.toNat / 4 = 1 ∧ (tm.divider.toNat + 1) % 65536 % 16 = 0
     ¬ticks { divider := 16, tima := 0xFF, tma := 0, tac := 5 } ∧
     ticks { divider := 15, tima := 0xFE, tma := 0, tac := 5 } ∧
     ticks { divider := 0xFFFF, tima := 0xFF, tma := 0, tac := 5 }) := by decide

/-- The pages at the ends of the legal ranges, and those beside them. -/
theorem witness_OamDmaCopies :
    let legal (gbcMode : Bool) (v : Byte) := v.toNat < 0x80 ∨ (0xC0 ≤ v.toNat ∧ v.toNat ≤ 0xDF) ∨
      (gbcMode = true ∧ 0xA0 ≤ v.toNat ∧ v.toNat ≤ 0xBF)
    (legal false 0x7F ∧ legal false 0xC0 ∧ legal false 0xDF ∧ legal true 0xA0 ∧ legal true 0xBF) ∧
    (¬legal false 0x80 ∧ ¬legal false 0xA0 ∧ ¬legal false 0xE0 ∧ ¬legal true 0x9F ∧ ¬legal true 0xFF) := by decide

/-- The color machine with HDMA from WRAM to the end of VRAM. -/
def hdmaReady : State := { gbc with hdma := { gbc.hdma with src := 0xC000, dst := 0x1FF0 } }

theorem hdmaReady_source (i j : Nat) (h : i < 0x2000) : locate hdmaReady (hdmaReady.hdma.src + BitVec.ofNat 16 i) ≠ .vram j := by
  have e : (hdmaReady.hdma.src + BitVec.ofNat 16 i).toNat = 0xC000 + i := by
    show ((0xC000 : Word) + BitVec.ofNat 16 i).toNat = _
    have k : (0xC000 : Word).toNat = 0xC000 := rfl
    simp only [BitVec.toNat_add, BitVec.toNat_ofNat, k]
    omega
  rw [locate_wram _ (by omega) (by omega)]
  exact nofun

/-- One block, and the most a write can ask for. -/
theorem witness_HdmaBulkCopies :
    hdmaReady.gbcMode = true ∧ hdmaReady.hdma.active = false ∧ ((0x00 : Byte).toNat < 128 ∧ (0x7F : Byte).toNat < 128) ∧
    ∀ i j, i < 16 * ((0x7F : Byte).toNat + 1) → locate hdmaReady (hdmaReady.hdma.src + BitVec.ofNat 16 i) ≠ .vram j :=
  ⟨by decide, by decide, by decide, fun i j h => hdmaReady_source i j (Nat.lt_of_lt_of_le h (by decide))⟩

/-- Arming with 0x80 and 0xFF; an active transfer with one block left and with 128. -/
theorem witness_HdmaHblankBlocks :
    hdmaReady.gbcMode = true ∧ 128 ≤ (0x80 : Byte).toNat ∧ 128 ≤ (0xFF : Byte).toNat ∧
    (∀ n : Fin 2, let s := { hdmaReady with
        hdma := { hdmaReady.hdma with active := true, hblank := true, remaining := if n = 0 then 1 else 128 } }
      s.gbcMode = true ∧ s.hdma.active = true ∧ s.hdma.hblank = true ∧ s.hdma.Inv ∧
      ∀ i j, i < 16 → locate s (s.hdma.src + BitVec.ofNat 16 i) ≠ .vram j) :=
  ⟨by decide, by decide, by decide, fun n =>
    ⟨rfl, rfl, rfl, by revert n; intro n; constructor <;> (revert n; decide),
      fun i j h => hdmaReady_source i j (Nat.lt_of_lt_of_le h (by decide))⟩⟩

/-- The cycle before an HBlank entry, with a transfer armed; and the one before it. -/
theorem witness_HdmaHblankBlocks_entry :
    (let s := { hdmaReady with
        hdma := { hdmaReady.hdma with active := true, hblank := true, remaining := 2 }
        ppu := { hdmaReady.ppu with linePosition := 251 } }
     128 ≤ s.ppu.lcdc.toNat ∧ s.ppu.ly < 144 ∧ s.ppu.linePosition = 251 ∧ s.hdma.active = true ∧ s.hdma.hblank = true) ∧
    ¬(hdmaReady.ppu.linePosition = 251) ∧ ¬(hdmaReady.hdma.active = true) := by decide

theorem witness_PpuPosition :
    ({ Ppu.reset with ly := 153, linePosition := 455 } : Ppu).Inv ∧
    ({ Ppu.reset with ly := 153, linePosition := 455 } : Ppu).lcdEnable = true ∧
    ({ Ppu.reset with lcdc := 0x7F } : Ppu).Inv ∧ ({ Ppu.reset with lcdc := 0x7F } : Ppu).lcdEnable = false :=
  ⟨by constructor <;> decide, by decide, by constructor <;> decide, by decide⟩

theorem witness_FrameDrawsEachLineOnce :
    State.reset.ppu.lcdEnable = true ∧ State.reset.ppu.ly = 0 ∧ State.reset.ppu.linePosition = 0 := by decide

/-- A line end into line 144 and the one from line 153 into line 0; the bits that an HBlank entry does not touch. -/
theorem witness_PpuInterrupts :
    ({ Ppu.reset with ly := 143 } : Ppu).ly < 154 ∧ ({ Ppu.reset with ly := 153 } : Ppu).ly < 154 ∧ 2 ≤ 2 ∧ 0 ≠ 1 := by
  decide

theorem witness_LcdOff :
    (128 ≤ State.reset.ppu.lcdc.toNat ∧ (0x7F : Byte).toNat < 128) ∧ 128 ≤ (0x80 : Byte).toNat ∧
    (busWrite State.reset 0xFF40 0x00).ppu.lcdc.toNat < 128 := by decide

theorem witness_LineSprites : State.reset.gbcMode = false ∧ gbc.gbcMode = true := by decide

/-- A sprite at line 0 with OAM y 16 is on the line, and the line has fewer than ten. -/
theorem witness_LineSprites_member :
    let s := { State.reset with mem := { Memories.empty with oam := [(0, 16), (1, 8)] } }
    (lineSprites s 0).length = 1 ∧ (oamSprite s.mem.oam 0).y ≤ (0 : Int) ∧
      (0 : Int) < (oamSprite s.mem.oam 0).y + s.ppu.objHeight := by decide

theorem witness_SpuFrames : ({ Spu.reset with samplePhase := 63 } : Spu).samplePhase < 64 := by decide

theorem witness_SpuMasterSwitch :
    State.reset.spu.master = true ∧ (0x7F : Byte).toNat < 128 ∧ (busWrite State.reset 0xFF26 0x00).spu.master = false ∧
    ((0xFF10 ≤ (0xFF10 : Word).toNat ∧ (0xFF10 : Word).toNat ≤ 0xFF25) ∧
      (0xFF10 ≤ (0xFF25 : Word).toNat ∧ (0xFF25 : Word).toNat ≤ 0xFF25)) ∧
    ((0xFF30 ≤ (0xFF30 : Word).toNat ∧ (0xFF30 : Word).toNat ≤ 0xFF3F) ∧
      (0xFF30 ≤ (0xFF3F : Word).toNat ∧ (0xFF3F : Word).toNat ≤ 0xFF3F)) := by decide

theorem witness_PulseTriggerAndLength :
    State.reset.spu.master = true ∧ 128 ≤ (0x80 : Byte).toNat ∧
    (let p := { Pulse.zero with enabled := true, lenEnable := true, lenTimer := 1 }
     p.enabled = true ∧ p.lenEnable = true ∧ 1 ≤ p.lenTimer) := by decide

theorem witness_RomBankWindow :
    (∀ m : Fin 5, 2 ≤ (Cart.fresh ([Mapper.plain, .mbc1, .mbc2, .mbc3, .mbc5].getD m .plain) false false 2 0
      (Rtc.fresh 0)).romBanks) ∧
    (0x3FFF : Word).toNat < 0x4000 ∧ (0x4000 ≤ (0x4000 : Word).toNat ∧ (0x7FFF : Word).toNat < 0x8000) ∧
    State.reset.cart.mapper = .plain := by decide

theorem witness_MapperCommands :
    (0x7FFF : Word).toNat < 0x8000 ∧ (cartOf .plain 2 0).cart.mapper = .plain ∧
    ((cartOf .mbc1 8 0).cart.mapper = .mbc1 ∧ (cartOf .mbc1 8 0).cart.romBank.toNat < 128) ∧
    (cartOf .mbc2 8 0).cart.mapper = .mbc2 ∧ (cartOf .mbc5 8 0).cart.mapper = .mbc5 ∧
    ((cartOf .mbc3 8 0).cart.mapper = .mbc3 ∧ 0x6000 ≤ (0x6000 : Word).toNat ∧
      (cartOf .mbc3 8 0).cart.rtc.latchFlag = false ∧ (0x01 : Byte).toNat % 2 = 1) := by decide

/-- An enabled clock register of each end of the range; a running clock with a pending reading; and a halted clock whose fields
show its logical time. -/
theorem witness_RtcWriteAndLatch :
    (∀ n : Fin 2, let s := { cartOf .mbc3 4 0 with
        cart := { (cartOf .mbc3 4 0).cart with ramEnable := true, ramSel := if n = 0 then 8 else 12 } }
      s.cart.mapper = .mbc3 ∧ s.cart.hasRtc = true ∧ s.cart.ramEnable = true ∧ 8 ≤ s.cart.ramSel.toNat ∧
      s.cart.ramSel.toNat ≤ 12) ∧
    ((0xA000 ≤ (0xA000 : Word).toNat ∧ (0xA000 : Word).toNat < 0xC000) ∧
      (0xA000 ≤ (0xBFFF : Word).toNat ∧ (0xBFFF : Word).toNat < 0xC000)) ∧
    (let s := { cartOf .mbc3 4 0 with io := { State.reset.io with wallQueue := [86400 * 512] } }
     s.cart.hasRtc = true ∧ s.cart.rtc.halted = false ∧ s.io.wallQueue = 86400 * 512 :: []) ∧
    (let r := { Rtc.fresh 0 with halted := true, haltTs := 90, base := -5, s := 35, m := 1, h := 0, dayl := 0, dayh := 0x40 }
     (cartOf .mbc3 4 0).cart.hasRtc = true ∧ r.halted = true ∧ r.s.toNat < 60 ∧ r.m.toNat < 60 ∧ r.h.toNat < 24 ∧ r.dayh &&& 0x7E = 0x40 ∧
     r.base = (r.haltTs : Int) - r.shownTime) := by decide

/-- DAYH = 0x40 at wall 100 halts the clock there, and 0x00 at wall 200 lets it run with nothing lost (65_cartridge.md R893). -/
theorem test_rtc_halt_and_resume :
    let s := { cartOf .mbc3 4 0 with io := { State.reset.io with wallQueue := [100, 200] } }
    let t := [(0x0000, 0x0A), (0x4000, 0x0C), (0xA000, 0x40)].foldl (fun u (p : Word × Byte) => busWrite u p.1 p.2) s
    let u := busWrite t 0xA000 0x00
    t.cart.rtc.halted = true ∧ t.cart.rtc.haltTs = 100 ∧ t.cart.rtc.base = 100 ∧
    u.cart.rtc.halted = false ∧ u.cart.rtc.base = 200 ∧ u.cart.rtc.haltTs = 100 := by decide

/-- A deadline at the end of the slot, and one a cycle later; a clean cartridge. -/
theorem witness_SaveFlush :
    mbc1Ram.cart.dirty = false ∧ ∀ n : Fin 2, let s := { mbc1Ram with cart := { mbc1Ram.cart with dirty := true, flushAt := 4 + n.val } }
      s.cart.dirty = true ∧ (s.cart.flushAt ≤ s.t + 4 ↔ n = 0) ∧ (s.t + 4 < s.cart.flushAt ↔ n = 1) := by decide

theorem witness_LoadGivesReset : parseCart (List.replicate 0x8000 0) = .ok State.reset.cart := witness_ResetInvariant.1

/-- The byte after `n` zeros, and the zeros after it. -/
theorem getD_middle (n m k : Nat) (x : Byte) :
    (List.replicate n 0 ++ x :: List.replicate m 0).getD (n + k) 0 = if k = 0 then x else 0 := by
  cases k <;> simp [List.getD_eq_getElem?_getD, List.getElem?_append_right, List.getElem?_replicate]
  split <;> rfl

/-- An image that is refused; one without a battery; and one with a battery and a clock, of mapper code 0x0F. -/
theorem witness_LoadGivesReset_save :
    parseCart [] = .error .empty ∧ State.reset.cart.battery = false ∧
    ∃ c, parseCart (List.replicate 0x0147 0 ++ 0x0F :: List.replicate 0x7EB8 0) = .ok c ∧ c.battery = true ∧ c.hasRtc = true := by
  refine ⟨rfl, rfl, Cart.fresh .mbc3 true true 2 0 (Rtc.fresh 0), ?_, rfl, rfl⟩
  have hl : (List.replicate 0x0147 (0 : Byte) ++ 0x0F :: List.replicate 0x7EB8 0).length = 0x8000 := by
    simp only [List.length_append, List.length_cons, List.length_replicate]
  have h7 := getD_middle 0x0147 0x7EB8 0 0x0F
  have h8 := getD_middle 0x0147 0x7EB8 1 0x0F
  have h9 := getD_middle 0x0147 0x7EB8 2 0x0F
  unfold parseCart
  rw [hl, h7, h8, h9]
  simp [maxImage, mapperOf, romBanksOf, ramSizeOf]

/-- A machine of that image's header to save, and an MBC2 and an MBC5 for the clauses on RAM. -/
theorem witness_SaveFlush_load :
    (∃ (c : Cart) (s : State),
      parseCart (List.replicate 0x0147 0 ++ 0x0F :: List.replicate 0x7EB8 0) = .ok c ∧ c.battery = true ∧
      s.cart.mapper = c.mapper ∧ s.cart.ramSize = c.ramSize ∧ s.cart.hasRtc = c.hasRtc ∧ c.hasRtc = true) ∧
    mapperOf 0x06 = some (.mbc2, true, false) ∧ mapperOf 0x1B = some (.mbc5, true, false) := by
  obtain ⟨c, h, hb, hr⟩ := witness_LoadGivesReset_save.2.2
  exact ⟨⟨c, { State.reset with cart := c }, h, hb, rfl, rfl, rfl, hr⟩, rfl, rfl⟩

/-- A save of a cartridge with a clock and no RAM is the layout's 22 bytes, and the halt of a load is bit 6 of the saved DAYH
(66_input_host.md R960). -/
theorem test_save_rtc_layout :
    let r := { Rtc.fresh 0x0102 with latchFlag := true, s := 0x2A, m := 1, h := 2, dayl := 3, dayh := 0x41 }
    let f := saveBytes (Cart.fresh .mbc3 true true 2 0 r) [] []
    f = [0, 0, 0, 0, 0, 0, 1, 2, 0, 0, 0, 0, 0, 0, 0, 0, 1, 0x2A, 1, 2, 3, 0x41] ∧
    Rtc.ofSave f = { r with halted := true } := by decide

/-- The lengths that load: 18 (92_eei_decisions.md D48) and 22 (the layout of 66_input_host.md R960) with a clock, none in
between, and the RAM alone without one. -/
theorem test_save_lengths :
    (Cart.fresh .mbc3 true true 2 0 (Rtc.fresh 0)).saveLengths = [18, 22] ∧
    (Cart.fresh .mbc3 true true 2 0x2000 (Rtc.fresh 0)).saveLengths = [0x2012, 0x2016] ∧
    (Cart.fresh .mbc2 true false 2 0 (Rtc.fresh 0)).saveLengths = [512] := by decide

/-- A BOOT_CPU of another register file: its registers, with the control bits 0 (10_state.md R40). -/
theorem test_boot_cpu :
    (State.resetWith false Memories.empty State.reset.cart 0 { cpu0 with a := 0x42, ime := true }).cpu
      = { cpu0 with a := 0x42, ime := false } := by decide

/-- The shortest image with a header, of two banks by its codes, which it lacks; a good image; and codes outside the tables. -/
theorem witness_LoadGivesReset_tables :
    (0x0150 ≤ (List.replicate 0x0150 (0 : Byte)).length ∧ (List.replicate 0x0150 (0 : Byte)).length < 2 * 0x4000) ∧
    (2 * 0x4000 ≤ (List.replicate 0x8000 (0 : Byte)).length ∧ (List.replicate 0x8000 (0 : Byte)).length ≤ 512 * 0x4000) ∧
    (0x00, Mapper.plain, false, false) ∈ mapperTable ∧ (0x06, Mapper.mbc2, true, false) ∈ mapperTable ∧
    (0, 2) ∈ romTable ∧ (8, 512) ∈ romTable ∧ (0, 0) ∈ ramTable ∧
    (∀ row ∈ mapperTable, row.1 ≠ 0x04) ∧ (∀ row ∈ romTable, row.1 ≠ 9) ∧ (∀ row ∈ ramTable, row.1 ≠ 5) := by
  simp only [List.length_replicate]
  decide

theorem witness_EchoRam :
    (0xE000 ≤ (0xE000 : Word).toNat ∧ (0xE000 : Word).toNat ≤ 0xFDFF) ∧
    (0xE000 ≤ (0xFDFF : Word).toNat ∧ (0xFDFF : Word).toNat ≤ 0xFDFF) := by decide

theorem witness_UnknownAddresses :
    (0xFF71 ≤ (0xFF7F : Word).toNat ∧ (0xFF7F : Word).toNat ≤ 0xFF7F) ∧
    (State.reset.gbcMode = false ∧ (0xFF70 : Word).toNat = 0xFF70) ∧ State.reset.ppu.ly < 256 := by decide

/-- `ready` with a press of START pending, due at once, and one of A due a slot later (66_input_host.md R952). -/
def readyPressed : State :=
  { ready with
    io := { ready.io with inputs := [{ due := 0, button := .start, pressed := true }, { due := 4, button := .a, pressed := true }] } }

/-- A step presses no button, though one is due; `refresh_input` presses the one that is due and keeps the other. -/
theorem test_inputs_wait_for_refresh :
    (match step readyPressed with
      | .next t => t.io.pressed == readyPressed.io.pressed && t.io.inputs == readyPressed.io.inputs
      | .fault _ => false
      | .refused _ => false) = true ∧
    (refreshInput readyPressed).io.pressed.start = true ∧ (refreshInput readyPressed).io.pressed.a = false ∧
    (refreshInput readyPressed).io.inputs = [{ due := 4, button := .a, pressed := true }] ∧
    (refreshInput readyPressed).int.request = 0x11 := by decide

/-- A first pending event that is due, and one that is not. -/
theorem witness_Joypad :
    (State.reset.io.pressed.get .start = false ∧ State.reset.io.sel.getLsbD 1 = false) ∧ State.reset.io.inputs = [] ∧
    (∃ e rest, readyPressed.io.inputs = e :: rest ∧ e.due ≤ readyPressed.t) ∧
    (∃ e rest, (refreshInput readyPressed).io.inputs = e :: rest ∧ ¬e.due ≤ (refreshInput readyPressed).t) ∧
    ∃ t, step readyPressed = .next t :=
  ⟨by decide, by decide, ⟨_, _, rfl, by decide⟩, ⟨_, _, rfl, by decide⟩, _, rfl⟩

/-- GBC mode; and an MBC3 with an RTC register, a select beside the registers and a RAM bank, an MBC2, and cartridges with and
without RAM. The addresses of the map's rows meet at their ends. -/
theorem witness_GbcBanksAndPalettes :
    gbc.gbcMode = true ∧
    (∀ n : Fin 3, let s := { cartOf .mbc3 4 0x8000 with
        cart := { (cartOf .mbc3 4 0x8000).cart with ramSel := [3, 12, 13].getD n 0 } }
      s.cart.mapper = .mbc3 ∧ s.cart.ramSize ≠ 0 ∧ (3 < s.cart.ramSel.toNat ↔ n ≠ 0)) ∧
    (cartOf .mbc2 4 0).cart.mapper = .mbc2 ∧ (mbc1Ram.cart.mapper ≠ .mbc2 ∧ mbc1Ram.cart.ramSize ≠ 0) ∧
    (State.reset.cart.mapper ≠ .mbc2 ∧ State.reset.cart.ramSize = 0) := by decide

/-- The address map at the ends of its rows. -/
theorem test_address_map_ends :
    memCell gbc 0x7FFF = none ∧ memCell gbc 0x8000 = some (.vram 0) ∧ memCell gbc 0x9FFF = some (.vram 0x1FFF) ∧
    memCell gbc 0xA000 = none ∧ memCell gbc 0xBFFF = none ∧ memCell gbc 0xC000 = some (.wram 0) ∧
    memCell gbc 0xCFFF = some (.wram 0x0FFF) ∧ memCell gbc 0xD000 = some (.wram 0x1000) ∧
    memCell gbc 0xDFFF = some (.wram 0x1FFF) ∧ memCell gbc 0xE000 = some (.wram 0) ∧
    memCell gbc 0xFDFF = some (.wram 0x1DFF) ∧ memCell gbc 0xFE00 = some (.oam 0) ∧ memCell gbc 0xFE9F = some (.oam 0x9F) ∧
    memCell gbc 0xFEA0 = none ∧ memCell gbc 0xFEFF = none ∧ memCell gbc 0xFF00 = none ∧ memCell gbc 0xFF7F = none ∧
    memCell gbc 0xFF80 = some (.zp 0) ∧ memCell gbc 0xFFFE = some (.zp 126) ∧ memCell gbc 0xFFFF = some .ie := by decide +kernel

theorem witness_DisplayAndHdmaAddressRegisters : gbc.gbcMode = true := by decide

/-- HDMA1 to HDMA4 = 0x12, 0x3F, 0xFF, 0xFF (62_dma_hdma.md R690). -/
theorem test_hdma_addresses :
    let t := [(0xFF51, 0x12), (0xFF52, 0x3F), (0xFF53, 0xFF), (0xFF54, 0xFF)].foldl
      (fun u (p : Word × Byte) => busWrite u p.1 p.2) gbc
    t.hdma.src = 0x1230 ∧ t.hdma.dst = 0x1FF0 ∧ busRead t 0xFF51 = 0xFF := by decide

end Sys2Proof.Machine.Test
end

section
/-! SUPPORT. What an instruction and a step can do to the machine, said once: `Moves K s t`. Whatever each move keeps, every
instruction and every step keeps. -/

namespace Sys2Proof.Machine

/-- `t` comes from `s` by the moves that instructions and interrupts are made of (00_scope.md R11, 60_exceptions.md R604, R610):
bus slots, bus writes, clearing an IF bit, raising a fatal fault, and writes of CPU registers, from old to new as `K` allows. -/
inductive Moves (K : Cpu → Cpu → Prop) (s : State) : State → Prop where
  | refl : Moves K s s
  | slot {t : State} (h : Moves K s t) : Moves K s (cycle t)
  | write {t : State} (h : Moves K s t) (a : Word) (v : Byte) : Moves K s (busWrite t a v)
  | clear {t : State} (h : Moves K s t) (k : Fin 5) : Moves K s (clearRequest k t)
  | fatal {t : State} (h : Moves K s t) (kind : FatalKind) (op : Byte) : Moves K s (raiseFatal kind op t)
  | regs {t : State} (h : Moves K s t) {c : Cpu} (k : K t.cpu c) : Moves K s (t.withCpu c)

/-- Any register write at all. -/
abbrev AnyWrite (_ _ : Cpu) : Prop := True

section
variable {K : Cpu → Cpu → Prop} {s t u : State}

theorem Moves.trans (h : Moves K s t) (k : Moves K t u) : Moves K s u := by
  induction k with
  | refl => exact h
  | slot _ ih => exact ih.slot
  | write _ a v ih => exact ih.write a v
  | clear _ k ih => exact ih.clear k
  | fatal _ kind op ih => exact ih.fatal kind op
  | regs _ hc ih => exact ih.regs hc

theorem Moves.mono {L : Cpu → Cpu → Prop} (h : Moves K s t) (hl : ∀ c d, K c d → L c d) : Moves L s t := by
  induction h with
  | refl => exact .refl
  | slot _ ih => exact ih.slot
  | write _ a v ih => exact ih.write a v
  | clear _ k ih => exact ih.clear k
  | fatal _ kind op ih => exact ih.fatal kind op
  | regs _ hc ih => exact ih.regs (hl _ _ hc)

theorem Moves.any (h : Moves K s t) : Moves AnyWrite s t := h.mono fun _ _ _ => trivial

theorem Moves.ite {p : Prop} [Decidable p] (h : Moves K s t) (k : Moves K s u) : Moves K s (if p then t else u) := by
  split
  · exact h
  · exact k

theorem Moves.repeatN {f : State → State} (hf : ∀ s, Moves K s (f s)) (n : Nat) (s : State) :
    Moves K s (repeatN f n s) := by
  induction n generalizing s with
  | zero => exact .refl
  | succ n ih => exact (hf s).trans (ih (f s))

/-- A register write over the registers `c`, which the slots and writes before it have left. -/
theorem Moves.regsOver {c d : Cpu} (h : Moves K s t) (hc : t.cpu = c) (k : K c d) : Moves K s (t.withCpu d) :=
  h.regs (hc ▸ k)

/-! ## What the moves keep -/

/-- Only the register writes touch the registers. -/
theorem Moves.cpu (h : Moves K s t) (hr : ∀ c, K c c) (ht : ∀ {c d e}, K c d → K d e → K c e) : K s.cpu t.cpu := by
  induction h with
  | refl => exact hr _
  | slot _ ih => rwa [cycle_cpu]
  | write _ a v ih => rwa [busWrite_cpu]
  | clear _ _ ih => exact ih
  | fatal _ _ _ ih => exact ih
  | regs _ hc ih => exact ht ih hc

theorem Moves.inv (h : Moves K s t) (hs : s.Inv) : t.Inv := by
  induction h with
  | refl => exact hs
  | slot _ ih => exact ih.cycle
  | write _ a v ih => exact ih.busWrite a v
  | clear _ _ ih => exact { ih with mem := ih.mem }
  | fatal _ _ _ ih => exact { ih with mem := ih.mem }
  | regs _ _ ih => exact ih.withCpu _

/-- Of what slots and bus writes keep, FAULT alone can differ. -/
theorem Moves.progress (h : Moves K s t) : Progress { s with fault := t.fault } t := by
  induction h with
  | refl => exact Progress.refl s
  | slot _ ih => rw [cycle_fault]; exact ih.trans (cycle_progress _)
  | write _ a v ih => rw [busWrite_fault]; exact ih.trans (busWrite_progress _ a v)
  | clear _ _ ih => exact { ih with fault := rfl }
  | fatal _ _ _ ih => exact { ih with fault := rfl }
  | regs _ _ ih => exact ih.trans (withCpu_progress _ _)

end

/-! ## The shared operations, as slots and writes before one register write -/

section
variable (s : State)

theorem loadA_eq (a : Word) : loadA a s = (cycle s).withCpu { s.cpu with a := busRead (cycle s) a } := by
  simp [loadA]

theorem jumpTo_eq (a : Word) : jumpTo a s = (cycle s).withCpu { s.cpu with pc := a } := by
  simp [jumpTo]

theorem applyAlu_eq (op : AluOp) (b : Byte) :
    applyAlu op b s = s.withCpu { s.cpu with a := (op s.cpu.a b s.cpu.f.c).1, f := (op s.cpu.a b s.cpu.f.c).2 } := rfl

theorem applyAluHl_eq (op : AluOp) : applyAluHl op s = applyAlu op (busRead (cycle s) s.cpu.hl) (cycle s) := by
  simp only [applyAluHl, memRead_eq]

theorem modifyHl_eq (g : Byte → Flags → Byte × Flags) :
    modifyHl g s =
      (busWrite (cycle (cycle s)) s.cpu.hl (g (busRead (cycle s) s.cpu.hl) s.cpu.f).1).withCpu
        { s.cpu with f := (g (busRead (cycle s) s.cpu.hl) s.cpu.f).2 } := by
  simp [modifyHl]

theorem editHl_eq (g : Byte → Byte) :
    editHl g s = busWrite (cycle (cycle s)) s.cpu.hl (g (busRead (cycle s) s.cpu.hl)) := by
  simp [editHl]

theorem shiftHl_eq (op : ShiftOp) :
    shiftHl op s =
      (busWrite (cycle (cycle s)) s.cpu.hl (op (busRead (cycle s) s.cpu.hl) s.cpu.f.c).1).withCpu
        { s.cpu with f := shiftFlags (op (busRead (cycle s) s.cpu.hl) s.cpu.f.c) } := by
  simp [shiftHl]

theorem returnTo_eq :
    returnTo s = (cycle (cycle (cycle s))).withCpu { s.cpu with sp := s.cpu.sp + 1 + 1, pc := (pop16 s).1 } := by
  simp [returnTo, pop16_eq]

theorem returnFromInterrupt_eq :
    returnFromInterrupt s =
      (cycle (cycle (cycle s))).withCpu { s.cpu with sp := s.cpu.sp + 1 + 1, pc := (pop16 s).1, ime := true } := by
  simp [returnFromInterrupt, pop16_eq]

theorem execLdRHl_eq (r : R8) :
    execLdRHl r s = .next ((cycle s).withCpu (s.cpu.set8 r (busRead (cycle s) s.cpu.hl))) := by
  simp [execLdRHl]

theorem execLdN16Sp_eq (a : Word) :
    execLdN16Sp a s =
      .next (busWrite (cycle (busWrite (cycle s) a (loByte s.cpu.sp))) (a + 1) (hiByte s.cpu.sp)) := by
  simp [execLdN16Sp]

theorem execLdSpHl_eq : execLdSpHl s = .next ((cycle s).withCpu { s.cpu with sp := s.cpu.hl }) := by
  simp [execLdSpHl]

theorem execLdHlSpE_eq (e : Byte) :
    execLdHlSpE e s =
      .next ((cycle s).withCpu
        { s.cpu.setHl (spPlusResult s.cpu.sp e).1 with f := (spPlusResult s.cpu.sp e).2 }) := by
  simp [execLdHlSpE]

theorem execAddHlRr_eq (p : R16) :
    execAddHlRr p s =
      .next ((cycle s).withCpu
        { s.cpu.setHl (addHlResult s.cpu.hl (s.cpu.get16 p) s.cpu.f).1 with
          f := (addHlResult s.cpu.hl (s.cpu.get16 p) s.cpu.f).2 }) := by
  simp [execAddHlRr]

theorem execAddSpE_eq (e : Byte) :
    execAddSpE e s =
      .next ((cycle (cycle s)).withCpu
        { s.cpu with sp := (spPlusResult s.cpu.sp e).1, f := (spPlusResult s.cpu.sp e).2 }) := by
  simp [execAddSpE]

theorem execBitHl_eq (b : Index3) :
    execBitHl b s =
      .next ((cycle s).withCpu { s.cpu with f := bitFlags b (busRead (cycle s) s.cpu.hl) s.cpu.f }) := by
  simp [execBitHl]

end

/-! ## The shared operations, by the registers they write -/

section
variable {K : Cpu → Cpu → Prop} (s : State)

theorem memWrite_moves (a : Word) (v : Byte) : Moves K s (memWrite a v s) := Moves.refl.slot.write a v

theorem editHl_moves (f : Byte → Byte) : Moves K s (editHl f s) := by
  rw [editHl_eq]
  exact Moves.refl.slot.slot.write _ _

theorem loadA_moves (ha : ∀ c v, K c { c with a := v }) (a : Word) : Moves K s (loadA a s) := by
  rw [loadA_eq]
  exact Moves.refl.slot.regsOver (cycle_cpu s) (ha _ _)

theorem applyAlu_moves (haf : ∀ c v f, K c { c with a := v, f := f }) (op : AluOp) (b : Byte) :
    Moves K s (applyAlu op b s) := by
  rw [applyAlu_eq]
  exact Moves.refl.regs (haf _ _ _)

theorem applyAluHl_moves (haf : ∀ c v f, K c { c with a := v, f := f }) (op : AluOp) : Moves K s (applyAluHl op s) := by
  rw [applyAluHl_eq]
  exact Moves.refl.slot.trans (applyAlu_moves _ haf op _)

theorem rotateA_moves (haf : ∀ c v f, K c { c with a := v, f := f }) (op : ShiftOp) : Moves K s (rotateA op s) :=
  Moves.refl.regs (haf _ _ _)

theorem shiftReg_moves (hrf : ∀ c r v f, K c { c.set8 r v with f := f }) (op : ShiftOp) (r : R8) :
    Moves K s (shiftReg op r s) :=
  Moves.refl.regs (hrf _ _ _ _)

theorem shiftHl_moves (hf : ∀ c f, K c { c with f := f }) (op : ShiftOp) : Moves K s (shiftHl op s) := by
  rw [shiftHl_eq]
  exact (Moves.refl.slot.slot.write _ _).regsOver (by simp) (hf _ _)

theorem modifyReg_moves {g : Byte → Flags → Byte × Flags} {r : R8}
    (hrf : ∀ c v w, K c { c.set8 r v with f := (g w c.f).2 }) : Moves K s (modifyReg g r s) :=
  Moves.refl.regs (hrf _ _ _)

theorem modifyHl_moves {g : Byte → Flags → Byte × Flags} (hf : ∀ c w, K c { c with f := (g w c.f).2 }) :
    Moves K s (modifyHl g s) := by
  rw [modifyHl_eq]
  exact (Moves.refl.slot.slot.write _ _).regsOver (by simp) (hf _ _)

theorem jumpTo_moves (hpc : ∀ c v, K c { c with pc := v }) (a : Word) : Moves K s (jumpTo a s) := by
  rw [jumpTo_eq]
  exact Moves.refl.slot.regsOver (cycle_cpu s) (hpc _ _)

theorem push16_moves (hsp : ∀ c v, K c { c with sp := v }) (v : Word) : Moves K s (push16 v s) := by
  rw [push16_eq]
  exact (((Moves.refl.slot.write _ _).slot).write _ _).regsOver (by simp) (hsp _ _)

theorem pop16_moves (hsp : ∀ c v, K c { c with sp := v }) : Moves K s (pop16 s).2 := by
  rw [pop16_eq]
  exact Moves.refl.slot.slot.regsOver (by simp) (hsp _ _)

theorem callTo_moves (hpc : ∀ c v, K c { c with pc := v }) (hsp : ∀ c v, K c { c with sp := v }) (a : Word) :
    Moves K s (callTo a s) := by
  have h : Moves K (internal s) (push16 (internal s).cpu.pc (internal s)) := push16_moves _ hsp _
  exact (Moves.refl.slot.trans h).regs (hpc _ _)

theorem returnTo_moves (hspc : ∀ c v w, K c { c with sp := v, pc := w }) : Moves K s (returnTo s) := by
  rw [returnTo_eq]
  exact Moves.refl.slot.slot.slot.regsOver (by simp) (hspc _ _ _)

theorem takeInterrupt_moves (k : Fin 5) : Moves AnyWrite s (takeInterrupt k s) := by
  have h : Moves AnyWrite s (repeatN internal (irqEntryPreCycles / slotCycles) (s.setIme false)) :=
    (Moves.refl.regs trivial).trans (Moves.repeatN (fun _ => Moves.refl.slot) _ _)
  unfold takeInterrupt
  dsimp only
  generalize repeatN internal (irqEntryPreCycles / slotCycles) (s.setIme false) = u at h ⊢
  exact (((h.trans (push16_moves u (fun _ _ => trivial) _)).clear k).regs trivial).slot

theorem serviceInterrupts_moves : Moves AnyWrite s (serviceInterrupts s) := by
  unfold serviceInterrupts
  split
  · exact Moves.refl
  · exact ((Moves.refl.regs trivial).trans (takeInterrupt_moves _ _)).ite (Moves.refl.regs trivial)

theorem boundary_moves : Moves AnyWrite s (boundary s) :=
  (serviceInterrupts_moves s).trans ((Moves.refl.regs trivial).ite Moves.refl)

/-- A fetch is a slot, and then moves: PC, and the slots of the operand bytes. -/
theorem fetchInstr_moves : Moves AnyWrite (cycle s) (fetchInstr s).2 := by
  have fetch (u : State) : Moves AnyWrite (cycle u) (fetch8 u).2 := Moves.refl.regs trivial
  have next (u : State) : Moves AnyWrite u (fetch8 u).2 := Moves.refl.slot.trans (fetch u)
  unfold fetchInstr
  dsimp only
  split
  · exact fetch s
  · exact (fetch s).trans (next _)
  · exact ((fetch s).trans (next _)).trans (next _)

end

/-! ## The CB map -/

/-- PREFIX CB's row is the meaning of the instruction that the CB map names (47_system.md R501). -/
theorem execCb_eq (op2 : Byte) (s : State) : execCb op2 s = exec (decodeCb op2) s := by
  unfold execCb decodeCb
  generalize fieldY op2 = y
  generalize fieldX op2 = x
  rcases r8Of (fieldZ op2) with _ | r
  · match x, y with
    | 0, 0 | 0, 1 | 0, 2 | 0, 3 | 0, 4 | 0, 5 | 0, 6 | 0, _ + 7 => rfl
    | 1, _ | 2, _ | _ + 3, _ => rfl
  · match x, y with
    | 0, 0 | 0, 1 | 0, 2 | 0, 3 | 0, 4 | 0, 5 | 0, 6 | 0, _ + 7 => rfl
    | 1, _ | 2, _ | _ + 3, _ => rfl

theorem exec_prefixCb (s : State) :
    exec .prefixCb s =
      exec (decodeCb (busRead (cycle s) s.cpu.pc)) ((cycle s).withCpu { s.cpu with pc := s.cpu.pc + 1 }) := by
  have h : exec .prefixCb s = execCb (fetch8 s).1 (fetch8 s).2 := rfl
  rw [h, fetch8_eq, execCb_eq]

/-- No row of the CB map is PREFIX CB, or writes a control bit or SP. -/
theorem decodeCb_row : ∀ op2 : Byte,
    decodeCb op2 ≠ .prefixCb ∧ decodeCb op2 ≠ .reti ∧ decodeCb op2 ≠ .di ∧ decodeCb op2 ≠ .ei ∧ decodeCb op2 ≠ .halt ∧
      writesSp (decodeCb op2) = false := by
  decide

/-! ## The registers an instruction may write -/

/-- From the registers `c` to `d`, only what the row of instruction `i` allows has changed: the flags and SP by their writers
(10_state.md R33, R35), IME, the EI latch and HALTED by theirs (R36 to R38). -/
structure Keeps (i : Instr) (c d : Cpu) : Prop where
  flagZ : writesZ i = false → d.f.z = c.f.z
  flagN : writesN i = false → d.f.n = c.f.n
  flagH : writesH i = false → d.f.h = c.f.h
  flagC : writesC i = false → d.f.c = c.f.c
  sp : writesSp i = false → d.sp = c.sp
  ime : i ≠ .reti → i ≠ .di → d.ime = c.ime
  eiPending : i ≠ .ei → i ≠ .di → d.eiPending = c.eiPending
  halted : i ≠ .halt → d.halted = c.halted

/-- The control bits (R36 to R38) of `d` are those of `c`. -/
structure SameControl (c d : Cpu) : Prop where
  ime : d.ime = c.ime
  eiPending : d.eiPending = c.eiPending
  halted : d.halted = c.halted

namespace Keeps

theorem refl (i : Instr) (c : Cpu) : Keeps i c c :=
  ⟨fun _ => rfl, fun _ => rfl, fun _ => rfl, fun _ => rfl, fun _ => rfl, fun _ _ => rfl, fun _ _ => rfl, fun _ => rfl⟩

theorem trans {i : Instr} {c d e : Cpu} (h : Keeps i c d) (k : Keeps i d e) : Keeps i c e where
  flagZ hi := (k.flagZ hi).trans (h.flagZ hi)
  flagN hi := (k.flagN hi).trans (h.flagN hi)
  flagH hi := (k.flagH hi).trans (h.flagH hi)
  flagC hi := (k.flagC hi).trans (h.flagC hi)
  sp hi := (k.sp hi).trans (h.sp hi)
  ime hr hd := (k.ime hr hd).trans (h.ime hr hd)
  eiPending he hd := (k.eiPending he hd).trans (h.eiPending he hd)
  halted hi := (k.halted hi).trans (h.halted hi)

section
variable {i : Instr} {c d : Cpu}

/-- A write that leaves F, SP and the control bits is allowed to every instruction. -/
theorem ofSame (hf : d.f = c.f) (hsp : d.sp = c.sp) (hc : SameControl c d) : Keeps i c d where
  flagZ _ := congrArg Flags.z hf
  flagN _ := congrArg Flags.n hf
  flagH _ := congrArg Flags.h hf
  flagC _ := congrArg Flags.c hf
  sp _ := hsp
  ime _ _ := hc.ime
  eiPending _ _ := hc.eiPending
  halted _ := hc.halted

/-- A write of SP is allowed to its writers. -/
theorem setSp (hi : writesSp i = true) (v : Word) : Keeps i c { c with sp := v } :=
  { refl i c with sp := fun h => absurd (h.symm.trans hi) Bool.false_ne_true }

/-- A write of all of F is allowed to the writers of all four flags. -/
theorem setF (hz : writesZ i = true) (hn : writesN i = true) (hh : writesH i = true) (hc : writesC i = true) (f : Flags) :
    Keeps i c { c with f := f } :=
  { refl i c with
    flagZ := fun h => absurd (h.symm.trans hz) Bool.false_ne_true
    flagN := fun h => absurd (h.symm.trans hn) Bool.false_ne_true
    flagH := fun h => absurd (h.symm.trans hh) Bool.false_ne_true
    flagC := fun h => absurd (h.symm.trans hc) Bool.false_ne_true }

/-- A write of F that leaves C is allowed to the writers of the other three. -/
theorem setZnh (hz : writesZ i = true) (hn : writesN i = true) (hh : writesH i = true) {f : Flags} (hc : f.c = c.f.c) :
    Keeps i c { c with f := f } :=
  { refl i c with
    flagZ := fun h => absurd (h.symm.trans hz) Bool.false_ne_true
    flagN := fun h => absurd (h.symm.trans hn) Bool.false_ne_true
    flagH := fun h => absurd (h.symm.trans hh) Bool.false_ne_true
    flagC := fun _ => hc }

/-- A write of F that leaves Z is allowed to the writers of the other three. -/
theorem setNhc (hn : writesN i = true) (hh : writesH i = true) (hc : writesC i = true) {f : Flags} (hz : f.z = c.f.z) :
    Keeps i c { c with f := f } :=
  { refl i c with
    flagZ := fun _ => hz
    flagN := fun h => absurd (h.symm.trans hn) Bool.false_ne_true
    flagH := fun h => absurd (h.symm.trans hh) Bool.false_ne_true
    flagC := fun h => absurd (h.symm.trans hc) Bool.false_ne_true }

theorem setPc (v : Word) : Keeps i c { c with pc := v } := ofSame rfl rfl ⟨rfl, rfl, rfl⟩

theorem setSpPc (hi : writesSp i = true) (v w : Word) : Keeps i c { c with sp := v, pc := w } := (setSp hi v).trans (setPc w)

theorem setSpF (hi : writesSp i = true) (hz : writesZ i = true) (hn : writesN i = true) (hh : writesH i = true)
    (hc : writesC i = true) (v : Word) (f : Flags) : Keeps i c { c with sp := v, f := f } :=
  (setSp hi v).trans (setF hz hn hh hc f)

theorem setA (v : Byte) : Keeps i c { c with a := v } := ofSame rfl rfl ⟨rfl, rfl, rfl⟩

theorem set8 (r : R8) (v : Byte) : Keeps i c (c.set8 r v) := ofSame (by simp) (by simp) ⟨by simp, by simp, by simp⟩

theorem setHl (v : Word) : Keeps i c (c.setHl v) := ofSame rfl rfl ⟨rfl, rfl, rfl⟩

theorem set16p (q : R16p) (v : Word) : Keeps i c (c.set16p q v) := ofSame (by simp) (by simp) ⟨by simp, by simp, by simp⟩

theorem setAf (hz : writesZ i = true) (hn : writesN i = true) (hh : writesH i = true) (hc : writesC i = true) (v : Word) :
    Keeps i c (c.setAf v) :=
  (setA (hiByte v)).trans (setF hz hn hh hc (Flags.ofByte (loByte v)))

/-- LD, INC and DEC of a pair write SP where the pair is SP. -/
theorem set16 {p : R16} (hi : writesSp i = (p == .sp)) (v : Word) : Keeps i c (c.set16 p v) := by
  cases p with
  | sp => exact setSp hi v
  | bc | de | hl => exact ofSame rfl rfl ⟨rfl, rfl, rfl⟩

end

end Keeps

/-! ## Every instruction, and the step -/

/-- An instruction other than PREFIX CB answers a next state, reached by moves that write the registers its row allows. -/
theorem exec_moves_of_ne_prefixCb {i : Instr} (hi : i ≠ .prefixCb) (s : State) :
    ∃ t, exec i s = .next t ∧ Moves (Keeps i) s t := by
  cases i with
  | prefixCb => exact absurd rfl hi
  | nop => exact ⟨_, rfl, .refl⟩
  | stop | illegal => exact ⟨_, rfl, Moves.refl.fatal _ _⟩
  | halt => exact ⟨_, rfl, Moves.refl.regs { Keeps.refl .halt _ with halted := fun h => absurd rfl h }⟩
  | ei => exact ⟨_, rfl, Moves.refl.regs { Keeps.refl .ei _ with eiPending := fun h => absurd rfl h }⟩
  | di =>
    exact ⟨_, rfl, Moves.refl.regs
      { Keeps.refl .di _ with ime := fun _ h => absurd rfl h, eiPending := fun _ h => absurd rfl h }⟩
  | ldRR | ldRN | resR | setR => exact ⟨_, rfl, Moves.refl.regs (Keeps.set8 _ _)⟩
  | ldRHl => exact ⟨_, execLdRHl_eq s _, Moves.refl.slot.regsOver (cycle_cpu s) (Keeps.set8 _ _)⟩
  | ldABc | ldADe | ldAN16 | ldhAN | ldAC => exact ⟨_, rfl, loadA_moves s (fun _ => Keeps.setA) _⟩
  | ldAHli | ldAHld => exact ⟨_, rfl, (loadA_moves s (fun _ => Keeps.setA) _).regs (Keeps.setHl _)⟩
  | ldHlR | ldHlN | ldBcA | ldDeA | ldN16A | ldhNA | ldCA => exact ⟨_, rfl, memWrite_moves s _ _⟩
  | ldHliA | ldHldA => exact ⟨_, rfl, (memWrite_moves s _ _).regs (Keeps.setHl _)⟩
  | ldRrN16 => exact ⟨_, rfl, Moves.refl.regs (Keeps.set16 rfl _)⟩
  | ldN16Sp => exact ⟨_, execLdN16Sp_eq s _, (Moves.refl.slot.write _ _).slot.write _ _⟩
  | ldSpHl => exact ⟨_, execLdSpHl_eq s, Moves.refl.slot.regsOver (cycle_cpu s) (Keeps.setSp rfl _)⟩
  | incRr | decRr => exact ⟨_, rfl, Moves.refl.slot.regs (Keeps.set16 rfl _)⟩
  | pushRr => exact ⟨_, rfl, Moves.refl.slot.trans (push16_moves _ (fun _ => Keeps.setSp rfl) _)⟩
  | popRr => exact ⟨_, rfl, (pop16_moves s fun _ => Keeps.setSp rfl).regs (Keeps.set16p _ _)⟩
  | popAf =>
    exact ⟨_, rfl, (pop16_moves s fun _ => Keeps.setSp rfl).regs (Keeps.setAf rfl rfl rfl rfl _)⟩
  | ldHlSpE =>
    exact ⟨_, execLdHlSpE_eq s _, Moves.refl.slot.regsOver (cycle_cpu s)
      ((Keeps.setHl _).trans (Keeps.setF rfl rfl rfl rfl _))⟩
  | addSpE =>
    exact ⟨_, execAddSpE_eq s _, Moves.refl.slot.slot.regsOver (c := s.cpu) (by simp)
      (Keeps.setSpF rfl rfl rfl rfl rfl _ _)⟩
  | addR | addN | adcR | adcN | subR | subN | sbcR | sbcN | andR | andN | xorR | xorN | orR | orN | cpR | cpN =>
    exact ⟨_, rfl, applyAlu_moves s (fun _ _ _ => (Keeps.setA _).trans (Keeps.setF rfl rfl rfl rfl _)) _ _⟩
  | addHl | adcHl | subHl | sbcHl | andHl | xorHl | orHl | cpHl =>
    exact ⟨_, rfl, applyAluHl_moves s (fun _ _ _ => (Keeps.setA _).trans (Keeps.setF rfl rfl rfl rfl _)) _⟩
  | rlca | rrca | rla | rra =>
    exact ⟨_, rfl, rotateA_moves s (fun _ _ _ => (Keeps.setA _).trans (Keeps.setF rfl rfl rfl rfl _)) _⟩
  | rlcR | rrcR | rlR | rrR | slaR | sraR | swapR | srlR =>
    exact ⟨_, rfl, shiftReg_moves s (fun _ _ _ _ => (Keeps.set8 _ _).trans (Keeps.setF rfl rfl rfl rfl _)) _ _⟩
  | rlcHl | rrcHl | rlHl | rrHl | slaHl | sraHl | swapHl | srlHl =>
    exact ⟨_, rfl, shiftHl_moves s (fun _ => Keeps.setF rfl rfl rfl rfl) _⟩
  | incR | decR =>
    exact ⟨_, rfl, modifyReg_moves s fun _ _ _ => (Keeps.set8 _ _).trans
      (Keeps.setZnh rfl rfl rfl (by simp [incResult, decResult]))⟩
  | incHl | decHl => exact ⟨_, rfl, modifyHl_moves s fun _ _ => Keeps.setZnh rfl rfl rfl rfl⟩
  | daa =>
    exact ⟨_, rfl, modifyReg_moves s fun _ _ _ => (Keeps.set8 _ _).trans
      { Keeps.refl _ _ with flagZ := nofun, flagN := fun _ => by simp [daaResult], flagH := nofun, flagC := nofun }⟩
  | cpl =>
    exact ⟨_, rfl, modifyReg_moves s fun _ _ _ => (Keeps.set8 _ _).trans
      { Keeps.refl _ _ with
        flagZ := fun _ => by simp [cplResult], flagN := nofun, flagH := nofun, flagC := fun _ => by simp [cplResult] }⟩
  | scf | ccf => exact ⟨_, rfl, Moves.refl.regs (Keeps.setNhc rfl rfl rfl rfl)⟩
  | addHlRr =>
    exact ⟨_, execAddHlRr_eq s _, Moves.refl.slot.regsOver (cycle_cpu s)
      ((Keeps.setHl _).trans (Keeps.setNhc rfl rfl rfl rfl))⟩
  | bitR => exact ⟨_, rfl, Moves.refl.regs (Keeps.setZnh rfl rfl rfl rfl)⟩
  | bitHl => exact ⟨_, execBitHl_eq s _, Moves.refl.slot.regsOver (cycle_cpu s) (Keeps.setZnh rfl rfl rfl rfl)⟩
  | resHl | setHl => exact ⟨_, rfl, editHl_moves s _⟩
  | jpHl => exact ⟨_, rfl, Moves.refl.regs (Keeps.setPc _)⟩
  | jp | jr => exact ⟨_, rfl, jumpTo_moves s (fun _ => Keeps.setPc) _⟩
  | jpCc | jrCc => exact ⟨_, rfl, (jumpTo_moves s (fun _ => Keeps.setPc) _).ite .refl⟩
  | call | rst => exact ⟨_, rfl, callTo_moves s (fun _ => Keeps.setPc) (fun _ => Keeps.setSp rfl) _⟩
  | callCc => exact ⟨_, rfl, (callTo_moves s (fun _ => Keeps.setPc) (fun _ => Keeps.setSp rfl) _).ite .refl⟩
  | ret => exact ⟨_, rfl, returnTo_moves s fun _ => Keeps.setSpPc rfl⟩
  | retCc =>
    exact ⟨_, rfl, (Moves.refl.slot.trans (returnTo_moves _ fun _ => Keeps.setSpPc rfl)).ite Moves.refl.slot⟩
  | reti =>
    refine ⟨_, rfl, ?_⟩
    rw [returnFromInterrupt_eq]
    exact Moves.refl.slot.slot.slot.regsOver (c := s.cpu) (by simp)
      { Keeps.setSpPc (i := .reti) rfl (s.cpu.sp + 1 + 1) (pop16 s).1 with ime := fun h => absurd rfl h }

/-- What a row of the CB map may write, PREFIX CB may. -/
theorem keeps_prefixCb {op2 : Byte} {c d : Cpu} (h : Keeps (decodeCb op2) c d) : Keeps .prefixCb c d := by
  obtain ⟨-, hreti, hdi, hei, hhalt, hsp⟩ := decodeCb_row op2
  exact { Keeps.refl .prefixCb c with
    flagZ := nofun, flagN := nofun, flagH := nofun, flagC := nofun
    sp := fun _ => h.sp hsp
    ime := fun _ _ => h.ime hreti hdi
    eiPending := fun _ _ => h.eiPending hei hdi
    halted := fun _ => h.halted hhalt }

/-- Every instruction answers a next state, reached by moves that write the registers its row allows. -/
theorem exec_moves (i : Instr) (s : State) : ∃ t, exec i s = .next t ∧ Moves (Keeps i) s t := by
  by_cases hi : i = .prefixCb
  · subst hi
    obtain ⟨t, ht, hm⟩ := exec_moves_of_ne_prefixCb (i := decodeCb (busRead (cycle s) s.cpu.pc))
      (decodeCb_row _).1 ((cycle s).withCpu { s.cpu with pc := s.cpu.pc + 1 })
    have fetched : Moves (Keeps .prefixCb) s ((cycle s).withCpu { s.cpu with pc := s.cpu.pc + 1 }) :=
      Moves.refl.slot.regsOver (cycle_cpu s) (Keeps.setPc _)
    exact ⟨t, (exec_prefixCb s).trans ht, fetched.trans (hm.mono fun _ _ => keeps_prefixCb)⟩
  · exact exec_moves_of_ne_prefixCb hi s

/-- What an instruction answers is reached by its moves. -/
theorem moves_of_exec {i : Instr} {s t : State} (h : exec i s = .next t) : Moves (Keeps i) s t := by
  obtain ⟨u, hu, hm⟩ := exec_moves i s
  cases hu.symm.trans h
  exact hm

/-- What an instruction answers keeps the registers that its row does not write. -/
theorem keeps_of_exec {i : Instr} {s t : State} (h : exec i s = .next t) : Keeps i s.cpu t.cpu :=
  (moves_of_exec h).cpu (Keeps.refl i) Keeps.trans

/-- A step is what its boundary does, a slot, and more moves: a HALTED machine spends the slot, any other fetches in it. -/
theorem moves_of_step {s t : State} (h : step s = .next t) : Moves AnyWrite (cycle (boundary s)) t := by
  unfold step at h
  split at h
  · cases h
  · dsimp only at h
    split at h
    · cases h
      exact .refl
    · exact (fetchInstr_moves _).trans (moves_of_exec h).any

end Sys2Proof.Machine
end

section
/-! PROOFS. 10_state.md: the invariant, the progress of a step, and who writes the control bits, the flags and SP. -/

namespace Sys2Proof.Machine

/-- FAULT put to any value on both sides. -/
theorem Progress.withFault {s t : State} (h : Progress s t) (f : Option FatalRecord) :
    Progress { s with fault := f } { t with fault := f } := { h with fault := rfl }

/-- Settles O33: a step is made of moves, and every move keeps the invariant. -/
theorem stepKeepsInvariant : Obligations.StepKeepsInvariant := by
  intro s t hs h
  exact (moves_of_step h).inv ((boundary_moves s).inv hs).cycle

/-- Settles O30: the boundary, the slot after it and the moves of the rest are all progress, and the slot adds 4 to T. -/
theorem stepProgress : Obligations.StepProgress := by
  intro s t h
  have first := (boundary_moves s).progress.withFault t.fault
  have slot := (cycle_progress (boundary s)).withFault t.fault
  have rest := (moves_of_step h).progress
  have all := (first.trans slot).trans rest
  obtain ⟨j, hj⟩ := first.time
  obtain ⟨k, hk⟩ := rest.time
  refine ⟨⟨j + k, ?_⟩, all.trace, all.gbcMode, all.rom, all.mapper, all.battery, all.hasRtc, all.romBanks, all.ramSize⟩
  simp only [cycle_t] at hj hk
  omega

/-- Settles O27: an instruction keeps the control bits that its row does not write. -/
theorem controlBitWriters : Obligations.ControlBitWriters := by
  refine ⟨fun i s t h => ?_, fun s => ⟨rfl, rfl, rfl, rfl⟩⟩
  have keeps := keeps_of_exec h
  refine ⟨keeps.ime, ?_, keeps.eiPending, keeps.halted⟩
  rintro rfl
  cases h
  rw [returnFromInterrupt_eq]
  rfl

/-- Settles O28: an instruction keeps the flags and the SP that its row does not write. -/
theorem flagAndSpWriters : Obligations.FlagAndSpWriters := by
  intro i s t h
  have keeps := keeps_of_exec h
  exact ⟨keeps.flagZ, keeps.flagN, keeps.flagH, keeps.flagC, keeps.sp⟩

end Sys2Proof.Machine
end

section
/-! PROOFS. 10_state.md: the register file and the reset values, and the rows of the I/O page that hold a byte or nothing. -/

namespace Sys2Proof.Machine

/-! ## The register file -/

/-- A write of F as a byte drops the low nibble (10_state.md R32). -/
theorem Flags.toByte_ofByte : ∀ v : Byte, (Flags.ofByte v).toByte = v &&& 0xF0 := by decide

theorem Cpu.setAf_af (c : Cpu) (v : Word) : (c.setAf v).af = v &&& 0xFFF0 := by
  calc (c.setAf v).af = cat16 (hiByte v) (Flags.ofByte (loByte v)).toByte := rfl
    _ = cat16 (hiByte v &&& 0xFF) (loByte v &&& 0xF0) := by
      rw [Flags.toByte_ofByte, show (0xFF : Byte) = BitVec.allOnes 8 from rfl, BitVec.and_allOnes]
    _ = cat16 (hiByte v) (loByte v) &&& cat16 0xFF 0xF0 := BitVec.and_append.symm
    _ = v &&& 0xFFF0 := by rw [cat16_hi_lo]; rfl

/-- A pair reads back what was written to it, and every other pair is unchanged. -/
theorem Cpu.get16_set16_eq (c : Cpu) (p q : R16) (v : Word) :
    (c.set16 p v).get16 q = if q = p then v else c.get16 q := by
  split
  · next h => rw [h, Cpu.get16_set16]
  · next h =>
    cases p <;> cases q
    case bc.bc | de.de | hl.hl | sp.sp => exact absurd rfl h
    all_goals rfl

theorem Flags.toNat_toByte (f : Flags) :
    f.toByte.toNat = 128 * f.z.toNat + 64 * f.n.toNat + 32 * f.h.toNat + 16 * f.c.toNat := by
  obtain ⟨z, n, h, c⟩ := f
  cases z <;> cases n <;> cases h <;> cases c <;> rfl

theorem toNat_append_byte {w : Nat} (hi : BitVec w) (lo : Byte) : (hi ++ lo).toNat = 256 * hi.toNat + lo.toNat := by
  rw [BitVec.toNat_append, ← Nat.shiftLeft_add_eq_or_of_lt lo.isLt, Nat.shiftLeft_eq, Nat.mul_comm]

/-- Settles O7 from the laws of the register file: a read after a write, and a pair as its two bytes. -/
theorem registerFile : Obligations.RegisterFile := by
  refine ⟨Cpu.get8_set8, fun c r v => ⟨Cpu.set8_f c r v, Cpu.set8_sp c r v, Cpu.set8_pc c r v⟩, Cpu.get16_set16_eq,
    fun c => ⟨toNat_append_byte _ _, toNat_append_byte _ _, toNat_append_byte _ _, toNat_append_byte _ _⟩,
    Cpu.setAf_af, Flags.toNat_toByte, fun c => ⟨rfl, rfl, rfl⟩, fun c v => ⟨Cpu.setBc_bc c v, rfl, Cpu.setDe_de c v, rfl, Cpu.setHl_hl c v, rfl⟩⟩

/-! ## The I/O page at a literal address -/

theorem busRead_page (s : State) {a : Word} (h : 0xFF00 ≤ a.toNat) (k : a.toNat < 0xFF80) :
    busRead s a = ioRead s (a.toNat - 0xFF00) :=
  busRead_io s (by omega) (by omega)

theorem busWrite_page (s : State) {a : Word} (v : Byte) (h : 0xFF00 ≤ a.toNat) (k : a.toNat < 0xFF80) :
    busWrite s a v = ioWrite s (a.toNat - 0xFF00) v :=
  busWrite_io s v (by omega) (by omega)

theorem busRead_ie (s : State) : busRead s 0xFFFF = s.int.enable := by
  unfold busRead
  rw [locate_ie s rfl]

/-! ## The reset values -/

theorem bootDmg_pairs :
    Cpu.bootDmg.af = 0x01B0 ∧ Cpu.bootDmg.bc = 0x0013 ∧ Cpu.bootDmg.de = 0x00D8 ∧ Cpu.bootDmg.hl = 0x014D := by
  decide

theorem bootGbc_pairs :
    Cpu.bootGbc.af = 0x1180 ∧ Cpu.bootGbc.bc = 0x0000 ∧ Cpu.bootGbc.de = 0xFF56 ∧ Cpu.bootGbc.hl = 0x000D := by
  decide

/-- What the I/O page reads after reset does not depend on the loaded memories and cartridge, but for the ports into memories. -/
theorem ioRead_resetWith (m : Bool) (mem : Memories) (cart : Cart) (wall : Nat) {off : Nat}
    (h : ¬(0x30 ≤ off ∧ off < 0x40) ∧ off ≠ 0x69 ∧ off ≠ 0x6B) :
    ioRead (State.resetWith m mem cart wall) off = ioRead (State.resetWith m Memories.empty State.reset.cart 0) off := by
  obtain ⟨hwave, hbg, hobj⟩ := h
  have gbc : ioReadGbc (State.resetWith m mem cart wall) off =
      ioReadGbc (State.resetWith m Memories.empty State.reset.cart 0) off := by
    unfold ioReadGbc
    split
    case h_4 | h_6 => contradiction
    all_goals rfl
  unfold ioRead
  rw [if_neg hwave, if_neg hwave, gbc]
  rfl

/-- Settles O59: every stored value is the reset state's, and every read is closed once the memories are out of it. -/
theorem resetValues : Obligations.ResetValues := by
  intro mem cart wall d g
  obtain ⟨daf, dbc, dde, dhl⟩ := bootDmg_pairs
  obtain ⟨gaf, gbc, gde, ghl⟩ := bootGbc_pairs
  refine ⟨fun m boot => rfl, daf, dbc, dde, dhl, gaf, gbc, gde, ghl, fun m => ?_⟩
  intro s
  simp (disch := decide) only [s, busRead_page, BitVec.reduceToNat, Nat.reduceSub, busRead_ie, ioRead_resetWith]
  cases m <;> and_intros
  any_goals rfl
  all_goals decide

/-! ## Addresses without a register -/

/-- The offsets of the I/O page at which no register stands (10_state.md R55, R92): in neither mode, or in DMG mode. -/
abbrev NoRegister (gbcMode : Bool) (off : Nat) : Prop :=
  off = 0x03 ∨ (0x08 ≤ off ∧ off ≤ 0x0E) ∨ off = 0x15 ∨ off = 0x1F ∨ (0x27 ≤ off ∧ off ≤ 0x2F) ∨
    (0x4C ≤ off ∧ off ≤ 0x4E) ∨ off = 0x50 ∨ (0x56 ≤ off ∧ off ≤ 0x67) ∨ (0x6C ≤ off ∧ off ≤ 0x6F) ∨
    (0x71 ≤ off ∧ off ≤ 0x7F) ∨
    (gbcMode = false ∧ (off = 0x4F ∨ (0x51 ≤ off ∧ off ≤ 0x55) ∨ (0x68 ≤ off ∧ off ≤ 0x6B) ∨ off = 0x70))

section
variable {gbc : Bool} {off : Nat}

theorem NoRegister.spu_read (h : NoRegister gbc off) (hoff : 0x10 ≤ off ∧ off < 0x30) (p : Spu) : p.read off = 0xFF := by
  unfold Spu.read
  split
  case h_17 => rfl
  all_goals omega

theorem NoRegister.spu_write (h : NoRegister gbc off) (hoff : 0x10 ≤ off ∧ off < 0x30) (p : Spu) (v : Byte) :
    p.write off v = p := by
  have reg : p.writeReg off v = p := by
    unfold Spu.writeReg
    split
    case h_21 => rfl
    all_goals omega
  unfold Spu.write
  rw [if_neg (by omega), reg, ite_self]

theorem NoRegister.ioReadGbc (h : NoRegister true off) (s : State) : ioReadGbc s off = 0xFF := by
  unfold Machine.ioReadGbc
  split
  case h_8 => rfl
  all_goals simp [NoRegister] at h

theorem NoRegister.ioWriteGbc (h : NoRegister true off) (s : State) (v : Byte) : ioWriteGbc s off v = s := by
  unfold Machine.ioWriteGbc
  split
  case h_12 => rfl
  all_goals simp [NoRegister] at h

theorem NoRegister.ioRead {s : State} (h : NoRegister s.gbcMode off) : ioRead s off = 0xFF := by
  have hgbc : (if s.gbcMode then Machine.ioReadGbc s off else 0xFF) = 0xFF := by
    split
    · next hg => rw [hg] at h; exact h.ioReadGbc s
    · rfl
  unfold Machine.ioRead
  rw [hgbc]
  split_ifs with hspu hwave
  · exact h.spu_read hspu _
  · omega
  · split
    case h_21 => rfl
    all_goals omega

theorem NoRegister.ioWrite {s : State} (h : NoRegister s.gbcMode off) (v : Byte) : ioWrite s off v = s := by
  have hgbc : (if s.gbcMode then Machine.ioWriteGbc s off v else s) = s := by
    split
    · next hg => rw [hg] at h; exact h.ioWriteGbc s v
    · rfl
  unfold Machine.ioWrite
  rw [hgbc]
  split_ifs with hspu hwave
  · rw [h.spu_write hspu]
  · omega
  · split
    case h_18 => rfl
    all_goals omega

end

/-- Settles O56: where no register stands a read is 0xFF and a write is nothing; SB, SC and LY by their rows. -/
theorem unknownAddresses : Obligations.UnknownAddresses := by
  intro s a v
  refine ⟨fun h => ?_, ?_⟩
  · have none : NoRegister s.gbcMode (a.toNat - 0xFF00) := by
      cases hg : s.gbcMode <;> simp only [hg, NoRegister, true_and, reduceCtorEq, false_and, or_false] at h ⊢ <;> omega
    rw [busRead_page s (by omega) (by omega), busWrite_page s v (by omega) (by omega)]
    exact ⟨none.ioRead, none.ioWrite v⟩
  · simp (disch := decide) only [busRead_page, busWrite_page, BitVec.reduceToNat, Nat.reduceSub]
    exact ⟨rfl, rfl, ite_self _, ite_self _, ite_self _, fun hly => Nat.mod_eq_of_lt hly⟩

/-! ## Display and HDMA address registers -/

/-- The low nibble cut to 0. -/
theorem toNat_and_F0 : ∀ v : Byte, (v &&& 0xF0).toNat = v.toNat / 16 * 16 := by decide

/-- HDMA1 to HDMA4 are written in GBC mode, and nothing else with them (62_dma_hdma.md R690). -/
theorem ioWrite_hdmaAddr {s : State} (h : s.gbcMode = true) (v : Byte) {off : Nat} (hoff : 0x51 ≤ off ∧ off ≤ 0x54) :
    ioWrite s off v = { s with hdma := hdmaAddrWrite s.hdma off v } := by
  obtain ⟨lo, hi⟩ := hoff
  interval_cases off <;> exact if_pos h

theorem ioRead_hdmaAddr (s : State) {off : Nat} (hoff : 0x51 ≤ off ∧ off ≤ 0x54) : ioRead s off = 0xFF := by
  obtain ⟨lo, hi⟩ := hoff
  interval_cases off <;> exact ite_self _

/-- Settles O60: every one of these writes is a row of the register catalogue, and the HDMA addresses are bytes of a pair. -/
theorem displayAndHdmaAddressRegisters : Obligations.DisplayAndHdmaAddressRegisters := by
  intro s v
  simp (disch := decide) only [busRead_page, busWrite_page, BitVec.reduceToNat, Nat.reduceSub]
  refine ⟨rfl, rfl, rfl, rfl, rfl, rfl, rfl, rfl, rfl, rfl, rfl, rfl, rfl, rfl, rfl, rfl, fun h => ?_⟩
  have write {off : Nat} (hoff : 0x51 ≤ off ∧ off ≤ 0x54) := ioWrite_hdmaAddr h v hoff
  have read {off : Nat} (hoff : 0x51 ≤ off ∧ off ≤ 0x54) := ioRead_hdmaAddr s hoff
  refine ⟨⟨_, ?_, write (by decide)⟩, ⟨_, ?_, write (by decide)⟩, ⟨_, ?_, write (by decide)⟩, ⟨_, ?_, write (by decide)⟩,
    read (by decide), read (by decide), read (by decide), read (by decide)⟩
  · rw [toNat_append_byte, toNat_loByte]
  · rw [toNat_append_byte, toNat_hiByte, toNat_and_F0, Nat.mul_comm 256]
  · rw [toNat_append_byte, BitVec.extractLsb'_toNat, BitVec.extractLsb'_toNat, Nat.shiftRight_zero, Nat.shiftRight_zero]
  · have bound := s.hdma.dst.isLt
    rw [toNat_append_byte, BitVec.extractLsb'_toNat, toNat_and_F0, Nat.shiftRight_eq_div_pow]
    omega

end Sys2Proof.Machine
end

section
/-! PROOFS. 20_memory.md and 65_cartridge.md: the memory cell behind an address, row by row, and a store to a cell. -/

namespace Sys2Proof.Machine

/-! ## The external window (65_cartridge.md R888) -/

section
variable {c : Cart} (off : Nat)

theorem Cart.selectsRtc_iff : c.selectsRtc = true ↔ c.mapper = .mbc3 ∧ 8 ≤ c.ramSel.toNat ∧ c.ramSel.toNat ≤ 12 := by
  simp [Cart.selectsRtc]

theorem Cart.extLocate_mbc2 (h : c.mapper = .mbc2) : c.extLocate off = .mbc2Ram (off % 512) := if_pos h

theorem Cart.extLocate_ram (h : c.mapper ≠ .mbc2) (hsize : c.ramSize ≠ 0) (hsel : c.mapper = .mbc3 → c.ramSel.toNat ≤ 3)
    {b : Nat} (hb : c.ramBankAt = some b) : c.extLocate off = .ram ((b * 0x2000 + off) % c.ramSize) := by
  have hrtc : ¬c.selectsRtc = true := fun k => by
    obtain ⟨hm, hlo, hhi⟩ := Cart.selectsRtc_iff.1 k
    have := hsel hm
    omega
  rw [Cart.extLocate, if_neg h, if_neg hrtc, Cart.ramLocate, if_neg hsize, hb]

/-- Nothing stands in the window where there is no RAM and no RTC register that is there is selected. -/
theorem Cart.extLocate_without_ram (h : c.mapper ≠ .mbc2) (hsize : c.ramSize = 0)
    (hrtc : c.mapper = .mbc3 → ¬(c.hasRtc = true ∧ 8 ≤ c.ramSel.toNat ∧ c.ramSel.toNat ≤ 12)) :
    c.extLocate off = .absent := by
  rw [Cart.extLocate, if_neg h, Cart.ramLocate, if_pos hsize]
  split
  · next hs =>
    obtain ⟨hm, hreg⟩ := Cart.selectsRtc_iff.1 hs
    exact if_neg fun has => hrtc hm ⟨has, hreg⟩
  · rfl

/-- A ram_sel above 3 selects no RAM bank: what is left is an RTC register, on a cartridge that has one. -/
theorem Cart.extLocate_above_banks (h : c.mapper = .mbc3) (hsel : 3 < c.ramSel.toNat) :
    c.extLocate off =
      if c.hasRtc = true ∧ 8 ≤ c.ramSel.toNat ∧ c.ramSel.toNat ≤ 12 then .rtc else .absent := by
  have hbank : c.ramBankAt = none := by
    rw [Cart.ramBankAt, h]
    exact if_neg (by omega)
  have hram : c.ramLocate off = .absent := by
    rw [Cart.ramLocate, hbank]
    exact ite_self _
  have hmbc2 : c.mapper ≠ .mbc2 := by rw [h]; decide
  rw [Cart.extLocate, if_neg hmbc2, hram]
  split
  · next hs =>
    obtain ⟨-, hreg⟩ := Cart.selectsRtc_iff.1 hs
    simp only [hreg, and_true]
  · next hs => exact (if_neg fun ⟨_, hreg⟩ => hs (Cart.selectsRtc_iff.2 ⟨h, hreg⟩)).symm

end

/-! ## The cell behind an address (20_memory.md R153) -/

/-- The memory cell of a place in the external window: an RTC register is none. -/
def ExtLoc.cell : ExtLoc → Option MemCell
  | .mbc2Ram i => some (.mbc2Ram i)
  | .rtc => none
  | .ram i => some (.cartRam i)
  | .absent => none

section
variable {s : State} {a : Word}

theorem memCell_vram (h : 0x8000 ≤ a.toNat) (k : a.toNat < 0xA000) :
    memCell s a = some (.vram (vbank s * 0x2000 + (a.toNat - 0x8000))) := by
  rw [memCell, locate_vram s h k]

theorem memCell_wram (h : 0xC000 ≤ a.toNat) (k : a.toNat < 0xE000) :
    memCell s a = some (.wram (wramIndex s (a.toNat - 0xC000))) := by
  rw [memCell, locate_wram s h k]

theorem memCell_oam (h : 0xFE00 ≤ a.toNat) (k : a.toNat < 0xFEA0) : memCell s a = some (.oam (a.toNat - 0xFE00)) := by
  rw [memCell, locate_oam s h k]

theorem memCell_zp (h : 0xFF80 ≤ a.toNat) (k : a.toNat < 0xFFFF) : memCell s a = some (.zp (a.toNat - 0xFF80)) := by
  rw [memCell, locate_zp s h k]

theorem memCell_ie (h : a.toNat = 0xFFFF) : memCell s a = some .ie := by
  rw [memCell, locate_ie s h]

theorem memCell_unmapped (h : 0xFEA0 ≤ a.toNat) (k : a.toNat < 0xFF00) : memCell s a = none := by
  rw [memCell, locate_unmapped s h k]

theorem memCell_rom_or_io (h : a.toNat < 0x8000 ∨ (0xFF00 ≤ a.toNat ∧ a.toNat < 0xFF80)) : memCell s a = none := by
  obtain h | ⟨h, k⟩ := h
  · rw [memCell, locate_rom s h]
  · rw [memCell, locate_io s h k]

theorem busRead_unmapped (h : 0xFEA0 ≤ a.toNat) (k : a.toNat < 0xFF00) : busRead s a = 0xFF := by
  rw [busRead, locate_unmapped s h k]

theorem memCell_ext (h : 0xA000 ≤ a.toNat) (k : a.toNat < 0xC000) :
    memCell s a = (s.cart.extLocate (a.toNat - 0xA000)).cell := by
  cases he : s.cart.extLocate (a.toNat - 0xA000) <;> simp only [memCell, locate_ext s h k, he, ExtLoc.cell]

theorem busRead_ext (h : 0xA000 ≤ a.toNat) (k : a.toNat < 0xC000) : busRead s a = extRead s (a.toNat - 0xA000) := by
  rw [busRead, locate_ext s h k]

theorem busWrite_ext (h : 0xA000 ≤ a.toNat) (k : a.toNat < 0xC000) (v : Byte) :
    busWrite s a v = extWrite s (a.toNat - 0xA000) v := by
  rw [busWrite, locate_ext s h k]

end

/-- The echo is the place of the address less 0x2000 (20_memory.md R157). -/
theorem locate_echo_eq (s : State) {a : Word} (h : 0xE000 ≤ a.toNat) (k : a.toNat < 0xFE00) :
    locate s a = locate s (a - 0x2000) := by
  have hsub : (a - 0x2000).toNat = a.toNat - 0x2000 := BitVec.toNat_sub_of_le (by bv_omega)
  rw [locate_echo s h k, locate_wram s (by omega) (by omega), hsub, Nat.sub_sub]

/-- Settles O55: both accesses look at the place of the address alone, which is that of the address less 0x2000. -/
theorem echoRam : Obligations.EchoRam := by
  intro s a v h k
  have place := locate_echo_eq s h (by omega)
  exact ⟨by rw [busRead, place, busRead], by rw [busWrite, place, busWrite]⟩

/-! ## A store to a cell -/

/-- The machine with the byte of a memory cell put to `v`: a store to external RAM schedules the save flush (65_cartridge.md
R889), and MBC2RAM takes the nibble (R892). -/
def MemCell.store (s : State) (v : Byte) : MemCell → State
  | .vram i => { s with mem := { s.mem with vram := s.mem.vram.write i v } }
  | .cartRam i => markDirty { s with mem := { s.mem with cartRam := s.mem.cartRam.write i v } }
  | .mbc2Ram i => markDirty { s with mem := { s.mem with mbc2Ram := s.mem.mbc2Ram.write i (v &&& 0x0F) } }
  | .wram i => { s with mem := { s.mem with wram := s.mem.wram.write i v } }
  | .oam i => { s with mem := { s.mem with oam := s.mem.oam.write i v } }
  | .zp i => { s with mem := { s.mem with zp := s.mem.zp.write i v } }
  | .ie => { s with int := { s.int with enable := v } }

section
variable {s : State} {a : Word} {c : MemCell} (v : Byte)

/-- A bus write to a writable cell is the store to that cell. -/
theorem busWrite_of_memCell (h : memCell s a = some c) (hw : c.writable s.cart = true) :
    busWrite s a v = c.store s v := by
  unfold memCell at h
  unfold busWrite
  cases hl : locate s a with
  | ext off =>
    simp only [hl] at h ⊢
    unfold extWrite
    cases he : s.cart.extLocate off <;> simp only [he] at h <;> cases h <;> exact if_pos hw
  | _ =>
    simp only [hl] at h ⊢
    cases h <;> rfl

theorem MemCell.value_store (c : MemCell) : c.value (c.store s v) = c.reads v := by
  cases c with
  | mbc2Ram i => exact congrArg (0xF0#8 ||| ·) (Memory.read_write_same _ _ _)
  | ie => rfl
  | _ => exact Memory.read_write_same _ _ _

theorem MemCell.value_store_other {c d : MemCell} (h : d ≠ c) : d.value (c.store s v) = d.value s := by
  cases c <;> cases d
  case vram.vram | cartRam.cartRam | wram.wram | oam.oam | zp.zp =>
    exact Memory.read_write_other _ v fun e => h (e ▸ rfl)
  case mbc2Ram.mbc2Ram =>
    exact congrArg (0xF0#8 ||| ·) (Memory.read_write_other _ _ fun e => h (e ▸ rfl))
  case ie.ie => exact absurd rfl h
  all_goals rfl

theorem MemCell.memCell_store (c : MemCell) (b : Word) : memCell (c.store s v) b = memCell s b := by
  cases c <;> rfl

/-- Of the cartridge a store can touch the dirty bit and the flush deadline alone. -/
theorem MemCell.cart_store (c : MemCell) :
    (c.store s v).cart =
      { s.cart with dirty := (c.store s v).cart.dirty, flushAt := (c.store s v).cart.flushAt } := by
  cases c <;> rfl

theorem MemCell.busRead_store (c : MemCell) (b : Word) :
    busRead (c.store s v) b = if memCell s b = some c then c.reads v else busRead s b := by
  split
  · next h => rw [busRead_of_memCell (c := c) (by rw [memCell_store, h]), value_store]
  · next h =>
    cases hb : memCell s b with
    | some d =>
      have hd : d ≠ c := fun e => h (by rw [hb, e])
      rw [busRead_of_memCell (c := d) (by rw [memCell_store, hb]), value_store_other v hd, busRead_of_memCell hb]
    | none => cases c <;> exact busRead_of_no_cell hb rfl rfl (fun _ => rfl) (fun _ => rfl) rfl rfl fun _ => rfl

/-- A store to a cell is that byte alone. -/
theorem MemCell.storedByte_store (c : MemCell) : StoredByte s (c.store s v) c v where
  value := c.value_store v
  others _ h := value_store_other v h
  reads := c.busRead_store v
  cells := c.memCell_store v
  cart := c.cart_store v
  rom := by cases c <;> rfl
  wave := by cases c <;> rfl
  bgPal := by cases c <;> rfl
  objPal := by cases c <;> rfl
  cpu := by cases c <;> rfl
  fault := by cases c <;> rfl
  time := by cases c <;> rfl
  gbcMode := by cases c <;> rfl
  request := by cases c <;> rfl
  svbk := by cases c <;> rfl
  timer := by cases c <;> rfl
  dma := by cases c <;> rfl
  hdma := by cases c <;> rfl
  ppu := by cases c <;> rfl
  spu := by cases c <;> rfl
  io := by cases c <;> rfl

end

/-! ## Writes that change nothing -/

section
variable {s : State} {off : Nat} (v : Byte)

theorem extWrite_disabled (h : s.cart.ramEnable = false) : extWrite s off v = s := by
  rw [extWrite, h]
  rfl

theorem extWrite_absent (h : s.cart.extLocate off = .absent) : extWrite s off v = s := by
  rw [extWrite, h]
  exact ite_self _

end

theorem mapperWrite_plain {s : State} (n : Nat) (v : Byte) (h : s.cart.mapper = .plain) : mapperWrite s n v = s := by
  rw [mapperWrite, h]

/-- Settles O11: a write to a writable cell is the store to it; the others reach nothing. -/
theorem busWriteFrame : Obligations.BusWriteFrame := by
  refine ⟨fun u a v c h hw => ?_, fun u a v h => ?_⟩
  · rw [busWrite_of_memCell v h hw]
    refine ⟨c.storedByte_store v, fun hc => ?_, ?_⟩
    · cases c with
      | cartRam i => exact absurd rfl (hc i).1
      | mbc2Ram i => exact absurd rfl (hc i).2
      | _ => rfl
    · rintro ⟨i, rfl | rfl⟩ <;> exact ⟨rfl, rfl⟩
  · obtain ⟨lo, hi, hoff⟩ | ⟨lo, hi, hm2, hm3, hsize⟩ | ⟨lo, hi, hm3, hram, hrtc⟩ | ⟨lo, hi⟩ | ⟨hi, hm⟩ := h
    · rw [busWrite_ext lo hi, extWrite_disabled v hoff]
    · rw [busWrite_ext lo hi]
      exact extWrite_absent v (Cart.extLocate_without_ram _ hm2 hsize fun k => absurd k hm3)
    · rw [busWrite_ext lo hi]
      apply extWrite_absent
      obtain hsize | hsel := hram
      · exact Cart.extLocate_without_ram _ (by rw [hm3]; decide) hsize fun _ => hrtc
      · rw [Cart.extLocate_above_banks _ hm3 hsel, if_neg hrtc]
    · rw [busWrite, locate_unmapped u lo hi]
    · rw [busWrite, locate_rom u hi]
      exact mapperWrite_plain _ v hm

end Sys2Proof.Machine
end

section
/-! PROOFS. 20_memory.md R153 and R156, 63_ppu.md R753: the address map with the banks in force, and the ports of GBC mode. -/

namespace Sys2Proof.Machine

/-! ## WRAM by its bank -/

theorem wbank_eq_max (s : State) : wbank s = if s.gbcMode then max 1 s.svbk.toNat else 1 := by
  have h : ∀ b : BitVec 3, (if b = 0 then 1 else b.toNat) = max 1 b.toNat := by decide
  rw [wbank, h]

section
variable {s : State} {a : Word}

theorem memCell_wram_fixed (h : 0xC000 ≤ a.toNat) (k : a.toNat < 0xD000) :
    memCell s a = some (.wram (a.toNat - 0xC000)) := by
  rw [memCell_wram h (by omega), wramIndex, if_pos (by omega)]

theorem memCell_wram_banked (h : 0xD000 ≤ a.toNat) (k : a.toNat < 0xE000) :
    memCell s a = some (.wram (wbank s * 0x1000 + (a.toNat - 0xD000))) := by
  rw [memCell_wram (by omega) k, wramIndex, if_neg (by omega), Nat.sub_sub]

/-- The echo has the cell and the byte of the address less 0x2000. -/
theorem memCell_echo (h : 0xE000 ≤ a.toNat) (k : a.toNat < 0xFE00) : memCell s a = memCell s (a - 0x2000) := by
  rw [memCell, locate_echo_eq s h k, memCell]

end

/-! ## The external window by what stands there -/

/-- What the window shows of the clock under a ram_sel above the RAM banks (65_cartridge.md R893). -/
def Rtc.shownReg (r : Rtc) (sel : Nat) : Byte :=
  match sel with
  | 8 => r.s
  | 9 => r.m
  | 10 => r.h
  | 11 => r.dayl
  | 12 => r.dayh
  | _ => 0xFF

theorem Rtc.shownReg_eq (r : Rtc) (sel : Nat) :
    r.shownReg sel = if 8 ≤ sel ∧ sel ≤ 12 then r.readReg sel else 0xFF := by
  split
  · next h =>
    obtain ⟨lo, hi⟩ := h
    interval_cases sel <;> rfl
  · unfold Rtc.shownReg
    split
    case h_6 => rfl
    all_goals omega

section
variable {s : State} {a : Word} (h : 0xA000 ≤ a.toNat) (k : a.toNat < 0xC000)
include h k

theorem memCell_ext_mbc2 (hm : s.cart.mapper = .mbc2) : memCell s a = some (.mbc2Ram ((a.toNat - 0xA000) % 512)) := by
  rw [memCell_ext h k, Cart.extLocate_mbc2 _ hm, ExtLoc.cell]

theorem memCell_ext_ram (hm : s.cart.mapper ≠ .mbc2) (hsize : s.cart.ramSize ≠ 0)
    (hsel : s.cart.mapper = .mbc3 → s.cart.ramSel.toNat ≤ 3) {b : Nat} (hb : s.cart.ramBankAt = some b) :
    memCell s a = some (.cartRam ((b * 0x2000 + (a.toNat - 0xA000)) % s.cart.ramSize)) := by
  rw [memCell_ext h k, Cart.extLocate_ram _ hm hsize hsel hb, ExtLoc.cell]

theorem ext_without_ram (hm : s.cart.mapper ≠ .mbc2) (hsize : s.cart.ramSize = 0)
    (hrtc : s.cart.mapper = .mbc3 → ¬(s.cart.hasRtc = true ∧ 8 ≤ s.cart.ramSel.toNat ∧ s.cart.ramSel.toNat ≤ 12)) :
    memCell s a = none ∧ busRead s a = 0xFF := by
  rw [memCell_ext h k, busRead_ext h k, extRead, Cart.extLocate_without_ram _ hm hsize hrtc]
  exact ⟨rfl, rfl⟩

theorem ext_above_banks (hm : s.cart.mapper = .mbc3) (hsel : 3 < s.cart.ramSel.toNat) :
    memCell s a = none ∧
      busRead s a = if s.cart.hasRtc then s.cart.rtc.shownReg s.cart.ramSel.toNat else 0xFF := by
  rw [memCell_ext h k, busRead_ext h k, extRead, Cart.extLocate_above_banks _ hm hsel, Rtc.shownReg_eq,
    ← ite_and]
  split <;> exact ⟨rfl, rfl⟩

end

/-! ## The bank and palette ports (20_memory.md R156, 63_ppu.md R753) -/

/-- The offsets of VBK, BCPS, BCPD, OCPS, OCPD and SVBK in the I/O page. -/
abbrev gbcPorts : List Nat := [0x4F, 0x68, 0x69, 0x6A, 0x6B, 0x70]

section
variable {s : State} {a : Word} {off : Nat} (h : s.gbcMode = true) (hoff : off ∈ gbcPorts) (ha : a.toNat = 0xFF00 + off)
include h hoff ha

theorem busRead_gbcPort : busRead s a = ioReadGbc s off := by
  rw [busRead_io s ha (by simp at hoff; omega)]
  fin_cases hoff <;> exact if_pos h

theorem busWrite_gbcPort (v : Byte) : busWrite s a v = ioWriteGbc s off v := by
  rw [busWrite_io s v ha (by simp at hoff; omega)]
  fin_cases hoff <;> exact if_pos h

theorem busRead_busWrite_gbcPort (v : Byte) : busRead (busWrite s a v) a = ioReadGbc (ioWriteGbc s off v) off := by
  rw [busRead_gbcPort ((busWrite_progress s a v).gbcMode.trans h) hoff ha, busWrite_gbcPort h hoff ha]

end

theorem toNat_vbk_byte : ∀ v : Byte, (0xFE#8 ||| (v.extractLsb' 0 1).zeroExtend 8).toNat = 0xFE + v.toNat % 2 := by decide

theorem toNat_svbk_byte : ∀ v : Byte, (0xF8#8 ||| (v.extractLsb' 0 3).zeroExtend 8).toNat = 0xF8 + v.toNat % 8 := by decide

/-- A palette index reads back with bit 6 set. -/
theorem toNat_paletteIndexByte : ∀ v : Byte,
    (paletteIndexByte (v.getLsbD 7) (v.extractLsb' 0 6)).toNat = v.toNat / 128 * 128 + 64 + v.toNat % 64 := by decide

/-- A palette index moves by one modulo 64 where its flag is set. -/
theorem toNat_paletteIndex_next (i : BitVec 6) (inc : Bool) :
    (if inc then i + 1 else i).toNat = (i.toNat + inc.toNat) % 64 := by
  cases inc
  · exact (Nat.mod_eq_of_lt i.isLt).symm
  · exact BitVec.toNat_add i 1

section
variable {s : State} (h : s.gbcMode = true) (v : Byte)
include h

theorem vbk_port : vbank (busWrite s 0xFF4F v) = v.toNat % 2 ∧
    (busRead (busWrite s 0xFF4F v) 0xFF4F).toNat = 0xFE + v.toNat % 2 := by
  rw [busRead_busWrite_gbcPort (off := 0x4F) h (by decide) rfl, busWrite_gbcPort (off := 0x4F) h (by decide) rfl]
  exact ⟨(if_pos h).trans (BitVec.extractLsb'_toNat ..), toNat_vbk_byte v⟩

theorem svbk_port : wbank (busWrite s 0xFF70 v) = max 1 (v.toNat % 8) ∧
    (busRead (busWrite s 0xFF70 v) 0xFF70).toNat = 0xF8 + v.toNat % 8 := by
  rw [busRead_busWrite_gbcPort (off := 0x70) h (by decide) rfl, busWrite_gbcPort (off := 0x70) h (by decide) rfl,
    wbank_eq_max]
  exact ⟨(if_pos h).trans (congrArg (max 1) (BitVec.extractLsb'_toNat ..)), toNat_svbk_byte v⟩

theorem bcps_port : (busRead (busWrite s 0xFF68 v) 0xFF68).toNat = v.toNat / 128 * 128 + 64 + v.toNat % 64 := by
  rw [busRead_busWrite_gbcPort (off := 0x68) h (by decide) rfl]
  exact toNat_paletteIndexByte v

theorem ocps_port : (busRead (busWrite s 0xFF6A v) 0xFF6A).toNat = v.toNat / 128 * 128 + 64 + v.toNat % 64 := by
  rw [busRead_busWrite_gbcPort (off := 0x6A) h (by decide) rfl]
  exact toNat_paletteIndexByte v

end

/-- `Memory.read_write`, the written address on the right of the equation. -/
theorem Memory.read_write_at (m : Memory) (a : Nat) (v : Byte) (i : Nat) :
    (m.write a v).read i = if i = a then v else m.read i := by
  rw [Memory.read_write]
  exact if_congr eq_comm rfl rfl

/-- Settles O58: each row of the map by its place and the bank in force, each port by the register it stores. -/
theorem gbcBanksAndPalettes : Obligations.GbcBanksAndPalettes := by
  refine ⟨fun s a => ?_, fun s v h => ?_⟩
  · intro n vramBank wramBank ramBank ram
    have withRead {c : MemCell} (hc : memCell s a = some c) : memCell s a = some c ∧ busRead s a = c.value s :=
      ⟨hc, busRead_of_memCell hc⟩
    have wram : wbank s = wramBank := wbank_eq_max s
    have bank (hsel : s.cart.mapper = .mbc3 → s.cart.ramSel.toNat ≤ 3) : s.cart.ramBankAt = some ramBank := by
      unfold Cart.ramBankAt ramBank
      cases hm : s.cart.mapper
      case mbc3 => exact if_pos (hsel hm)
      all_goals rfl
    refine ⟨fun lo hi => withRead (memCell_vram lo hi),
      fun lo hi => ⟨fun hm => withRead (memCell_ext_mbc2 lo hi hm),
        fun hm hsize hsel => withRead (memCell_ext_ram lo hi hm hsize hsel (bank hsel)),
        fun hm hsize hrtc => ext_without_ram lo hi hm hsize ?_, ext_above_banks lo hi⟩,
      fun lo hi => withRead (memCell_wram_fixed lo hi),
      fun lo hi => withRead (wram ▸ memCell_wram_banked lo hi),
      fun lo hi => ⟨memCell_echo lo hi, (echoRam s a 0 lo (by omega)).1⟩,
      fun lo hi => withRead (memCell_oam lo hi), fun lo hi => ⟨memCell_unmapped lo hi, busRead_unmapped lo hi⟩,
      fun lo hi => withRead (memCell_zp lo hi), fun hn => withRead (memCell_ie hn), memCell_rom_or_io⟩
    rintro hm3 ⟨has, h8, h12⟩
    have := hrtc hm3 has
    omega
  · obtain ⟨vbk, vbkRead⟩ := vbk_port h v
    obtain ⟨svbk, svbkRead⟩ := svbk_port h v
    refine ⟨vbk, vbkRead, svbk, svbkRead, bcps_port h v, ocps_port h v, ?_, ?_⟩
    · rw [busWrite_gbcPort (off := 0x69) h (by decide) rfl]
      exact ⟨Memory.read_write_at _ _ v, toNat_paletteIndex_next _ _, busRead_gbcPort (off := 0x69) h (by decide) rfl, rfl⟩
    · rw [busWrite_gbcPort (off := 0x6B) h (by decide) rfl]
      exact ⟨Memory.read_write_at _ _ v, toNat_paletteIndex_next _ _, busRead_gbcPort (off := 0x6B) h (by decide) rfl, rfl⟩

end Sys2Proof.Machine
end

section
/-! PROOFS. 30_encoding.md: the decoder and the encoder undo each other. -/

namespace Sys2Proof.Machine

/-! ## What the decoder does, by the number of operand bytes (30_encoding.md R206) -/

section
variable {op : Byte} {i : Instr} (rest : List Byte)

theorem decode_plain (h : operandBytes op = 0) (hrow : decodeOp op 0 0 = i) : decode (op :: rest) = .ok (i, rest) := by
  have hne : op ≠ 0xCB := by
    rintro rfl
    exact absurd h (by decide)
  unfold decode
  simp only [h, hrow]
  exact if_neg fun hbare => hne hbare.1

theorem decode_byte {b : Byte} (h : operandBytes op = 1) (hrow : decodeOp op b 0 = i) :
    decode (op :: b :: rest) = .ok (i, rest) := by
  subst hrow
  unfold decode
  simp [h]

theorem decode_word {b1 b2 : Byte} (h : operandBytes op = 2) (hrow : decodeOp op b1 b2 = i) :
    decode (op :: b1 :: b2 :: rest) = .ok (i, rest) := by
  subst hrow
  unfold decode
  simp [h]

/-- The byte after 0xCB is a row of the CB map (R208). -/
theorem decode_cb {op2 : Byte} (hrow : decodeCb op2 = i) : decode (0xCB :: op2 :: rest) = .ok (i, rest) :=
  decode_byte rest rfl hrow

/-- A 16-bit immediate is read low byte first (R205). -/
theorem decode_n16 {row : Word → Instr} (h : operandBytes op = 2) (hrow : ∀ b1 b2, decodeOp op b1 b2 = row (cat16 b2 b1))
    (a : Word) : decode (op :: n16Bytes a ++ rest) = .ok (row a, rest) :=
  decode_word rest h (by rw [hrow, cat16_hi_lo])

theorem decode_illegal (h : op ∈ illegalOpcodes) : decode (op :: rest) = .ok (.illegal op, rest) := by
  have rows : ∀ op ∈ illegalOpcodes, operandBytes op = 0 ∧ decodeOp op 0 0 = .illegal op := by decide
  obtain ⟨hn, hrow⟩ := rows op h
  exact decode_plain rest hn hrow

end

/-! ## The decoder undoes the encoder -/

/-- The instructions are grouped by what they name: a register, a pair, a condition and a 3-bit index are each put to every value,
and an immediate is any byte or word. The rows left at the end have a fixed opcode and at most an immediate byte. -/
theorem decode_encode_append (i : Instr) (rest : List Byte) (hwf : i.wf = true) (hi : i ≠ .prefixCb) :
    decode (encode i ++ rest) = .ok (i, rest) := by
  cases i
  case prefixCb => exact absurd rfl hi
  case illegal op => exact decode_illegal rest (List.contains_iff_mem.mp hwf)
  case ldRR dst src => cases dst <;> cases src <;> rfl
  case ldRN r n => cases r <;> rfl
  case ldRHl r | ldHlR r | incR r | decR r => cases r <;> rfl
  case addR r | adcR r | subR r | sbcR r | andR r | xorR r | orR r | cpR r => cases r <;> rfl
  case rlcR r | rrcR r | rlR r | rrR r | slaR r | sraR r | swapR r | srlR r => cases r <;> rfl
  case bitR b r | resR b r | setR b r => cases r <;> exact decode_cb rest (by decide +revert)
  case bitHl b | resHl b | setHl b => exact decode_cb rest (by decide +revert)
  case rst t => exact decode_plain rest (by decide +revert) (by decide +revert)
  case pushRr p | popRr p | addHlRr p | incRr p | decRr p => cases p <;> rfl
  case jrCc cc e => cases cc <;> rfl
  case retCc cc => cases cc <;> rfl
  case jpCc cc a | callCc cc a => cases cc <;> exact decode_n16 rest rfl (fun _ _ => rfl) a
  case ldRrN16 p a => cases p <;> exact decode_n16 rest rfl (fun _ _ => rfl) a
  case ldAN16 a | ldN16A a | ldN16Sp a | jp a | call a => exact decode_n16 rest rfl (fun _ _ => rfl) a
  all_goals rfl

/-- Settles O2: every row comes back by `decode_encode_append`, and the bare prefix by computing. -/
theorem decodeOfEncode : Obligations.DecodeOfEncode :=
  ⟨decode_encode_append, rfl⟩

/-! ## The encoder undoes the decoder -/

/-- The opcodes followed by one immediate byte (R206). -/
abbrev byteOpcodes : List Byte :=
  [0x06, 0x0E, 0x16, 0x1E, 0x26, 0x2E, 0x36, 0x3E, 0x18, 0x20, 0x28, 0x30, 0x38,
   0xC6, 0xCE, 0xD6, 0xDE, 0xE6, 0xEE, 0xF6, 0xFE, 0xE0, 0xE8, 0xF0, 0xF8]

/-- The opcodes followed by a 16-bit immediate (R206). -/
abbrev wordOpcodes : List Byte :=
  [0x01, 0x11, 0x21, 0x31, 0x08, 0xC2, 0xCA, 0xD2, 0xDA, 0xC3, 0xC4, 0xCC, 0xD4, 0xDC, 0xCD, 0xEA, 0xFA]

/-- Every second byte of the prefix is the encoding of its row of the CB map (R208). -/
theorem encode_decodeCb : ∀ op2 : Byte, encode (decodeCb op2) = [0xCB, op2] ∧ (decodeCb op2).wf = true := by decide

theorem encode_decodeOp_plain : ∀ op : Byte, operandBytes op = 0 →
    encode (decodeOp op 0 0) = [op] ∧ (decodeOp op 0 0).wf = true := by decide

theorem encode_decodeOp_byte {op : Byte} (h : operandBytes op = 1) (b : Byte) :
    encode (decodeOp op b 0) = [op, b] ∧ (decodeOp op b 0).wf = true := by
  have hmem : op = 0xCB ∨ op ∈ byteOpcodes := by decide +revert
  rcases hmem with rfl | hmem
  · exact encode_decodeCb b
  · fin_cases hmem <;> exact ⟨rfl, rfl⟩

theorem n16Bytes_cat16 (hi lo : Byte) : n16Bytes (cat16 hi lo) = [lo, hi] := by simp [n16Bytes]

theorem encode_decodeOp_word {op : Byte} (h : operandBytes op = 2) (b1 b2 : Byte) :
    encode (decodeOp op b1 b2) = [op, b1, b2] ∧ (decodeOp op b1 b2).wf = true := by
  have hmem : op ∈ wordOpcodes := by decide +revert
  rw [← n16Bytes_cat16]
  fin_cases hmem <;> exact ⟨rfl, rfl⟩

theorem encode_append_of_decode {bytes rest : List Byte} {i : Instr} (h : decode bytes = .ok (i, rest)) :
    encode i ++ rest = bytes ∧ i.wf = true := by
  unfold decode at h
  split at h
  · cases h
  next op tail =>
    split at h
    next bare =>
      obtain ⟨rfl, rfl⟩ := bare
      cases h
      exact ⟨rfl, rfl⟩
    · split at h
      next hn _ =>
        cases h
        exact (encode_decodeOp_plain op hn).imp_left (congrArg (· ++ rest))
      next b _ hn _ =>
        cases h
        exact (encode_decodeOp_byte hn b).imp_left (congrArg (· ++ rest))
      next b1 b2 _ hn _ =>
        cases h
        exact (encode_decodeOp_word hn b1 b2).imp_left (congrArg (· ++ rest))
      · cases h

/-- Three bytes are enough for every opcode. -/
theorem exists_decode (op b1 b2 : Byte) (rest : List Byte) : ∃ i after, decode (op :: b1 :: b2 :: rest) = .ok (i, after) := by
  have hle : operandBytes op ≤ 2 := by decide +revert
  interval_cases hn : operandBytes op
  · exact ⟨_, _, decode_plain _ hn rfl⟩
  · exact ⟨_, _, decode_byte _ hn rfl⟩
  · exact ⟨_, _, decode_word _ hn rfl⟩

/-- Only the bare prefix byte decodes to PREFIX CB. -/
theorem decode_ne_prefixCb {op b : Byte} {rest after : List Byte} {i : Instr} (h : decode (op :: b :: rest) = .ok (i, after)) :
    i ≠ .prefixCb := by
  rintro rfl
  obtain ⟨rfl, -⟩ := List.cons.inj (encode_append_of_decode h).1
  obtain ⟨hrow, -⟩ := Prod.mk.inj (Except.ok.inj ((decode_cb rest rfl).symm.trans h))
  exact (decodeCb_row b).1 hrow

/-- Settles O3: what decodes is read off the encoding that it comes back to, so an illegal instruction is its own first byte. -/
theorem decodeIsOnto : Obligations.DecodeIsOnto := by
  refine ⟨fun _ _ _ => encode_append_of_decode, fun op b1 b2 rest => ?_⟩
  obtain ⟨i, after, h⟩ := exists_decode op b1 b2 rest
  refine ⟨i, after, h, fun hmem => ?_, fun hmem x hi => ?_, decode_ne_prefixCb h⟩
  · exact (Prod.mk.inj (Except.ok.inj (h.symm.trans (decode_illegal _ hmem)))).1
  · subst hi
    obtain ⟨henc, hwf⟩ := encode_append_of_decode h
    obtain ⟨rfl, -⟩ := List.cons.inj henc
    exact hmem (List.contains_iff_mem.mp hwf)

/-! ## The spec's words -/

/-- Settles O1: each word by running the decoder on it. -/
theorem specWordsDecode : Obligations.SpecWordsDecode :=
  ⟨rfl, rfl, rfl, rfl, rfl, rfl, rfl, rfl, rfl, rfl, rfl, rfl, rfl, rfl, rfl⟩

end Sys2Proof.Machine
end

section
/-! PROOFS. 40_load8.md R300 to R316: the 8-bit loads and the one-byte stores. -/

namespace Sys2Proof.Machine

/-! ## The frame of a register write -/

/-- Another register file is nothing outside the CPU. -/
theorem sameOutside_withCpu (u : State) (d : Cpu) : SameOutside u (u.withCpu d) := rfl

section
variable (c : Cpu)

theorem Cpu.onlyWrites_set8 (r : R8) (v : Byte) : c.OnlyWrites (c.set8 r v) [r] where
  bytes q hq := by rw [Cpu.get8_set8, if_neg fun h => hq (List.mem_singleton.2 h)]
  sp := c.set8_sp r v
  pc := c.set8_pc r v
  ime := c.set8_ime r v
  eiPending := c.set8_eiPending r v
  halted := c.set8_halted r v

theorem Cpu.onlyWrites_setHl (v : Word) : c.OnlyWrites (c.setHl v) [.h, .l] where
  bytes q hq := by
    cases q
    case h | l => simp at hq
    all_goals rfl
  sp := c.setHl_sp v
  pc := c.setHl_pc v
  ime := c.setHl_ime v
  eiPending := c.setHl_eiPending v
  halted := c.setHl_halted v

end

/-- Two writes in a row write what either does. -/
theorem Cpu.OnlyWrites.trans {c d e : Cpu} {w w' : List R8} (h : c.OnlyWrites d w) (k : d.OnlyWrites e w') :
    c.OnlyWrites e (w ++ w') where
  bytes q hq := by
    rw [List.mem_append, not_or] at hq
    exact (k.bytes q hq.2).trans (h.bytes q hq.1)
  sp := k.sp.trans h.sp
  pc := k.pc.trans h.pc
  ime := k.ime.trans h.ime
  eiPending := k.eiPending.trans h.eiPending
  halted := k.halted.trans h.halted

/-- Writing back the HL that a machine already has changes nothing. -/
theorem State.setHl_of_hl {u : State} {v : Word} (h : u.cpu.hl = v) : u.setHl v = u := by
  rw [State.setHl, ← h, Cpu.setHl, Cpu.hl, hiByte_cat16, loByte_cat16]
  rfl

/-! ## The loads of a register (R300, R301, R302) -/

/-- What ends in the write of one register leaves the value there and everything else as it was before that write. -/
theorem set8_result {o : Host.Outcome State Fault Refusal} {u : State} {c : Cpu} {dst : R8} {v : Byte}
    (h : o = .next (u.withCpu (c.set8 dst v))) :
    ∃ t, o = .next t ∧ t.cpu.get8 dst = v ∧ c.OnlyWrites t.cpu [dst] ∧ t.cpu.f = c.f ∧ SameOutside u t :=
  ⟨_, h, c.get8_set8_self dst v, c.onlyWrites_set8 dst v, c.set8_f dst v, sameOutside_withCpu u _⟩

/-- Settles O8: each form is one register write, the (HL) form's after its read slot. -/
theorem loadRegister : Obligations.LoadRegister :=
  fun s dst => ⟨fun _ => set8_result rfl, fun _ => set8_result rfl, set8_result (execLdRHl_eq s dst)⟩

/-! ## The loads of A (R305, R307, R309, R311, R313, R314) -/

theorem loadA_hl (s : State) (a : Word) : (loadA a s).cpu.hl = s.cpu.hl := by
  rw [loadA_eq]
  rfl

theorem setHl_loadA (s : State) (a v : Word) :
    (loadA a s).setHl v = (cycle s).withCpu ((s.cpu.set8 .a (busRead (cycle s) a)).setHl v) := by
  rw [loadA_eq, State.setHl_eq, State.withCpu_withCpu, State.withCpu_cpu, Cpu.set8]

/-- Every form as one: the slot, then the byte read into A and the form's HL into HL. -/
theorem exec_loadForm (form : LoadForm) (s : State) :
    exec form.instr s =
      .next ((cycle s).withCpu
        ((s.cpu.set8 .a (busRead (cycle s) (form.address s.cpu))).setHl (form.hl s.cpu))) := by
  rw [← setHl_loadA]
  have hl := loadA_hl s (form.address s.cpu)
  cases form with
  | hli => exact congrArg (fun v => Host.Outcome.next ((loadA s.cpu.hl s).setHl (v + 1))) hl
  | hld => exact congrArg (fun v => Host.Outcome.next ((loadA s.cpu.hl s).setHl (v - 1))) hl
  | bc | de | abs | high | highC => exact congrArg Host.Outcome.next (State.setHl_of_hl hl).symm

/-- Settles O9 from the one equation of the seven forms. -/
theorem loadAccumulator : Obligations.LoadAccumulator := fun s form =>
  ⟨_, exec_loadForm form s, Cpu.setHl_a _ _, Cpu.setHl_hl _ _,
    (s.cpu.onlyWrites_set8 .a _).trans (Cpu.onlyWrites_setHl _ _), Cpu.setHl_f _ _, sameOutside_withCpu _ _⟩

/-! ## The stores (R303, R304, R306, R308, R310, R312, R315, R316) -/

theorem memWrite_hl (s : State) (a : Word) (v : Byte) : (memWrite a v s).cpu.hl = s.cpu.hl := by
  rw [memWrite_eq, busWrite_cpu, cycle_cpu]

theorem setHl_memWrite (s : State) (a v : Word) (b : Byte) :
    (memWrite a b s).setHl v = (busWrite (cycle s) a b).withCpu (s.cpu.setHl v) := by
  rw [State.setHl, memWrite_eq, busWrite_cpu, cycle_cpu]

/-- Every form as one: the slot, the bus write, then the form's HL into HL. -/
theorem exec_storeForm (form : StoreForm) (s : State) :
    exec form.instr s =
      .next ((busWrite (cycle s) (form.address s.cpu) (form.value s.cpu)).withCpu (s.cpu.setHl (form.hl s.cpu))) := by
  rw [← setHl_memWrite]
  have hl := memWrite_hl s (form.address s.cpu) (form.value s.cpu)
  cases form with
  | hli => exact congrArg (fun v => Host.Outcome.next ((storeA s.cpu.hl s).setHl (v + 1))) hl
  | hld => exact congrArg (fun v => Host.Outcome.next ((storeA s.cpu.hl s).setHl (v - 1))) hl
  | hlReg | hlImm | bc | de | abs | high | highC => exact congrArg Host.Outcome.next (State.setHl_of_hl hl).symm

/-- A slot leaves what the bus reads of a cell that no device writes. -/
theorem busRead_cycle_of_quiet {s : State} {b : Word} {d : MemCell} (h : memCell s b = some d) (hq : d.quiet = true) :
    busRead (cycle s) b = busRead s b := by
  rw [busRead_of_memCell ((cycle_memCell s b).trans h), busRead_of_memCell h, cycle_value s hq]

/-- After the slot and the store to a writable cell the bus reads the stored byte at every address of the cell, and at every
other address what it reads after the slot. -/
theorem busRead_store_after_slot {s : State} {a : Word} {c : MemCell} (h : memCell s a = some c)
    (hw : c.writable s.cart = true) (v : Byte) (b : Word) :
    busRead (busWrite (cycle s) a v) b = if memCell s b = some c then c.reads v else busRead (cycle s) b := by
  rw [busWrite_of_memCell v ((cycle_memCell s a).trans h) ((cycle_writable s c).trans hw), MemCell.busRead_store,
    cycle_memCell]

/-- Settles O10: the outside is the bus write's by the one equation of the nine forms, and that is a store to the cell. -/
theorem storeByte : Obligations.StoreByte := by
  intro s form
  refine ⟨_, exec_storeForm form s, sameOutside_withCpu _ _, Cpu.setHl_hl _ _, Cpu.onlyWrites_setHl _ _, Cpu.setHl_f _ _,
    fun c hc hw => ?_⟩
  have reads := busRead_store_after_slot hc hw (form.value s.cpu)
  refine ⟨reads, fun b d hd hq hne => (reads b).trans ?_⟩
  rw [if_neg fun k => hne (Option.some.inj (hd.symm.trans k)), busRead_cycle_of_quiet hd hq]

end Sys2Proof.Machine
end

section
/-! PROOFS. 41_load16_stack.md R330 to R336, 43_alu16.md R403, 46_control.md R476, R477 and R481: the loads of a pair, SP plus a
displacement, and what a push stores. -/

namespace Sys2Proof.Machine

/-! ## The loads of a pair (R330, R332, R335, R336) -/

/-- `Pop16()` with its two steps of SP as one. -/
theorem pop16_eq_add_two (s : State) :
    pop16 s =
      (cat16 (busRead (cycle (cycle s)) (s.cpu.sp + 1)) (busRead (cycle s) s.cpu.sp),
        (cycle (cycle s)).withCpu { s.cpu with sp := s.cpu.sp + 2 }) := by
  rw [pop16_eq, BitVec.add_assoc]
  rfl

/-- Settles O12: LD rr,n16 is one write of the pair, LD SP,HL one slot, and a POP is `Pop16()` and then the write of the pair. -/
theorem loadPair : Obligations.LoadPair := by
  intro s
  refine ⟨fun p v => ?_, execLdSpHl_eq s, fun q => ?_, ?_⟩
  · exact ⟨_, rfl, sameOutside_withCpu s _, s.cpu.set16_f p v, fun q => s.cpu.get16_set16_eq p q v, s.cpu.set16_a p v,
      s.cpu.set16_pc p v, s.cpu.set16_ime p v, s.cpu.set16_eiPending p v, s.cpu.set16_halted p v⟩
  · show execPopRr q s = _
    rw [execPopRr, pop16_eq_add_two]
    rfl
  · show execPopAf s = _
    rw [execPopAf, pop16_eq_add_two]
    simp only [State.withCpu_cpu, State.withCpu_withCpu, Cpu.setAf, hiByte_cat16, loByte_cat16, Flags.ofByte]

/-! ## SP plus a displacement (R333, 43_alu16.md R403) -/

/-- A displacement, as a word, is its signed value modulo 65536. -/
theorem toNat_signExtend_byte (e : Byte) : ((e.signExtend 16).toNat : Int) = e.toInt % 65536 := by
  rw [BitVec.signExtend, BitVec.toNat_ofInt]
  omega

theorem toNat_signExtend_byte_low (e : Byte) : (e.signExtend 16).toNat % 256 = e.toNat := by
  have hx := toNat_signExtend_byte e
  rw [BitVec.toInt_eq_toNat_cond] at hx
  omega

/-- Where the sum of two words differs from their exclusive or, a carry has come into the bit. -/
theorem xor_xor_add_and_twoPow (x y : Word) {i : Nat} (hi : i < 16) :
    ((x ^^^ y ^^^ (x + y)) &&& BitVec.twoPow 16 i != 0) = BitVec.carry i x y false := by
  have bit : (x ^^^ y ^^^ (x + y)).getLsbD i = BitVec.carry i x y false := by
    rw [BitVec.getLsbD_xor, BitVec.getLsbD_xor, BitVec.getLsbD_add hi]
    cases x.getLsbD i <;> cases y.getLsbD i <;> simp
  have ne : BitVec.twoPow 16 i ≠ 0 := fun h => by
    have hbit := congrArg (fun w : Word => w.getLsbD i) h
    simp [hi] at hbit
  rw [BitVec.and_twoPow, bit]
  cases BitVec.carry i x y false
  · rfl
  · exact bne_iff_ne.2 ne

theorem spPlusResult_toNat (sp : Word) (e : Byte) :
    ((spPlusResult sp e).1.toNat : Int) = ((sp.toNat : Int) + e.toInt) % 65536 := by
  have hx := toNat_signExtend_byte e
  rw [spPlusResult, BitVec.toNat_add]
  omega

/-- The mix of R333 gives the carries out of bits 3 and 7 of the unsigned sum of the low bytes. -/
theorem spPlusResult_flags (sp : Word) (e : Byte) :
    (spPlusResult sp e).2 =
      { z := false, n := false, h := decide (sp.toNat % 16 + e.toNat % 16 > 0xF),
        c := decide (sp.toNat % 256 + e.toNat > 0xFF) } := by
  have low := toNat_signExtend_byte_low e
  have half := xor_xor_add_and_twoPow sp (e.signExtend 16) (i := 4) (by decide)
  have full := xor_xor_add_and_twoPow sp (e.signExtend 16) (i := 8) (by decide)
  rw [spPlusResult, Flags.mk.injEq]
  refine ⟨rfl, rfl, half.trans (decide_eq_decide.2 ?_), full.trans (decide_eq_decide.2 ?_)⟩ <;>
    · rw [Bool.toNat_false]
      omega

theorem Cpu.OnlyWrites.setF {c d : Cpu} {w : List R8} (h : c.OnlyWrites d w) (f : Flags) :
    c.OnlyWrites { d with f := f } w where
  bytes q hq := Eq.trans (by cases q <;> rfl) (h.bytes q hq)
  sp := h.sp
  pc := h.pc
  ime := h.ime
  eiPending := h.eiPending
  halted := h.halted

/-- Settles O13: both forms write `spPlusResult`, whose sum is signed and whose flags are the carries of the low bytes. -/
theorem stackPointerPlusDisplacement : Obligations.StackPointerPlusDisplacement := by
  intro s e
  have sum := spPlusResult_toNat s.cpu.sp e
  have flags := spPlusResult_flags s.cpu.sp e
  refine ⟨⟨_, execLdHlSpE_eq s e, sameOutside_withCpu _ _, (s.cpu.onlyWrites_setHl _).setF _, ?_, flags⟩,
    ⟨_, execAddSpE_eq s e, sum, ?_⟩⟩
  · rw [← sum]
    exact congrArg (fun v : Word => (v.toNat : Int)) (s.cpu.setHl_hl _)
  · rw [flags]
    rfl

/-! ## The two-byte stores (R331, R334, 46_control.md R476, R477, R481) -/

/-- `Push16(v)` as its two slots and two stores, and SP less 2. -/
theorem push16_eq_pushed (s : State) (v : Word) :
    push16 v s = (pushed s s.cpu.sp v).withCpu { s.cpu with sp := s.cpu.sp - 2 } := by
  rw [push16_eq, BitVec.sub_sub]
  rfl

/-- `Internal(); Push16(PC); PC <- a` as one register write after the push. -/
theorem callTo_eq (s : State) (a : Word) :
    callTo a s = (pushed (cycle s) s.cpu.sp s.cpu.pc).withCpu { s.cpu with sp := s.cpu.sp - 2, pc := a } := by
  simp only [callTo, internal_eq, push16_eq_pushed, cycle_cpu, State.setPc_eq, State.withCpu_cpu, State.withCpu_withCpu]

/-- The target of RST, eight times its number (46_control.md R481). -/
theorem rstTarget_eq : ∀ t : Index3, t.zeroExtend 16 <<< 3 = BitVec.ofNat 16 (8 * t.toNat) := by decide

/-- Whether a store may change a cell does not depend on a store before it. -/
theorem MemCell.writable_store (s : State) (v : Byte) (c d : MemCell) :
    d.writable (c.store s v).cart = d.writable s.cart := by
  rw [c.cart_store]
  cases d <;> rfl

section
variable {u : State} {a b : Word} {c d : MemCell}

/-- After the slot and the store to a writable cell, the bus reads the stored byte of that cell, and every other cell that no
device writes as before the slot. -/
theorem busRead_store_of_quiet (hc : memCell u a = some c) (hw : c.writable u.cart = true) (v : Byte)
    (hd : memCell u b = some d) (hq : d.quiet = true) :
    busRead (busWrite (cycle u) a v) b = if d = c then c.reads v else busRead u b := by
  rw [busRead_store_after_slot hc hw, hd, busRead_cycle_of_quiet hd hq]
  simp only [Option.some.injEq]

variable {sp : Word} {c1 c2 : MemCell}

/-- A push into writable cells, read back at a cell that no device writes: the low byte, stored last, hides the high byte
where both are one cell. -/
theorem busRead_pushed (h1 : memCell u (sp - 1) = some c1) (h2 : memCell u (sp - 2) = some c2)
    (w1 : c1.writable u.cart = true) (w2 : c2.writable u.cart = true) (v : Word) (hd : memCell u b = some d)
    (hq : d.quiet = true) :
    busRead (pushed u sp v) b =
      if d = c2 then c2.reads (loByte v) else if d = c1 then c1.reads (hiByte v) else busRead u b := by
  have first : busWrite (cycle u) (sp - 1) (hiByte v) = c1.store (cycle u) (hiByte v) :=
    busWrite_of_memCell _ ((cycle_memCell u _).trans h1) ((cycle_writable u c1).trans w1)
  have cells (x : Word) : memCell (busWrite (cycle u) (sp - 1) (hiByte v)) x = memCell u x := by
    rw [first, MemCell.memCell_store, cycle_memCell]
  have writable : c2.writable (busWrite (cycle u) (sp - 1) (hiByte v)).cart = true := by
    rw [first, MemCell.writable_store, cycle_writable, w2]
  rw [pushed, busRead_store_of_quiet ((cells _).trans h2) writable _ ((cells b).trans hd) hq,
    busRead_store_of_quiet h1 w1 _ hd hq]

end

/-- Settles O14: each form by its equation, and the memory clause by reading the push back at each of the three addresses. -/
theorem storeWord : Obligations.StoreWord := by
  refine ⟨fun s => ⟨fun q => ?_, fun a => ?_, fun cc a => ?_, fun t => ?_, execLdN16Sp_eq s⟩, ?_⟩
  · show Host.Outcome.next (push16 ((cycle s).cpu.get16q q) (cycle s)) = _
    rw [push16_eq_pushed, cycle_cpu]
  · exact congrArg Host.Outcome.next (callTo_eq s a)
  · rw [← callTo_eq]
    rfl
  · rw [← callTo_eq, ← rstTarget_eq]
    rfl
  · intro u sp v c1 c2 h1 h2 q1 q2 w1 w2
    refine ⟨?_, ?_, fun b d hd hq ne1 ne2 => ?_⟩
    · rw [busRead_pushed h1 h2 w1 w2 v h2 q2, if_pos rfl]
    · rw [busRead_pushed h1 h2 w1 w2 v h1 q1, if_pos rfl]
    · rw [busRead_pushed h1 h2 w1 w2 v hd hq, if_neg ne2, if_neg ne1]

end Sys2Proof.Machine
end

section
/-! PROOFS. 42_alu8.md R360 to R376: the eight operations on A, INC and DEC, DAA, and the flag operations. -/

namespace Sys2Proof.Machine

/-! ## Every operation on A as one equation (R360) -/

/-- The operation of a name (R361 to R368). -/
def AluName.op : AluName → AluOp
  | .add => aluAdd
  | .adc => aluAdc
  | .sub => aluSub
  | .sbc => aluSbc
  | .and => aluAnd
  | .xor => aluXor
  | .or => aluOr
  | .cp => aluCp

theorem Src.after_cpu (src : Src) (s : State) : (src.after s).cpu = s.cpu := by
  cases src with
  | reg _ => rfl
  | mem => exact cycle_cpu s
  | imm _ => rfl

theorem exec_aluInstr_eq_applyAlu (n : AluName) (src : Src) (s : State) :
    exec (n.instr src) s = .next (applyAlu n.op (src.value s) (src.after s)) := by
  cases src with
  | reg _ => cases n <;> rfl
  | mem =>
    have hl : exec (n.instr .mem) s = .next (applyAluHl n.op s) := by cases n <;> rfl
    rw [hl, applyAluHl_eq]
    rfl
  | imm _ => cases n <;> rfl

/-- Any operation in any form: the operand's slot, if it has one, and then one write of A and F. -/
theorem exec_aluInstr (n : AluName) {src : Src} {s : State} {r : Byte × Flags}
    (h : n.op s.cpu.a (src.value s) s.cpu.f.c = r) :
    exec (n.instr src) s = .next ((src.after s).withCpu { s.cpu with a := r.1, f := r.2 }) := by
  rw [exec_aluInstr_eq_applyAlu, applyAlu_eq, src.after_cpu, h]

/-! ## Sums and differences (R361 to R364, R368) -/

theorem getLsbD_four (x : Word) : x.getLsbD 4 = decide (x.toNat / 2 ^ 4 % 2 = 1) :=
  Nat.testBit_eq_decide_div_mod_eq

/-- Bit 4 of the mix is the parity of what the operands and the result are above their low nibbles. -/
theorem halfMix_eq (a b : Byte) (res : Int) :
    halfMix a b res = decide (((a.toNat : Int) / 16 + b.toNat / 16 + res / 16) % 2 = 1) := by
  rw [halfMix, getLsbD_four, BitVec.toNat_xor, BitVec.toNat_xor, Nat.xor_div_two_pow, Nat.xor_div_two_pow,
    Nat.xor_mod_two_eq, Nat.add_mod, Nat.xor_mod_two_eq, decide_eq_decide, BitVec.toNat_setWidth, BitVec.toNat_setWidth,
    BitVec.toNat_ofInt]
  omega

theorem ofNat_beq_zero (n : Nat) : (BitVec.ofNat 8 n == 0) = decide (n % 256 = 0) := by
  rw [Bool.beq_eq_decide_eq, decide_eq_decide, ← BitVec.toNat_inj, BitVec.toNat_ofNat]
  rfl

/-- ADC on numbers (R362). -/
theorem aluAdc_eq (a b : Byte) (c : Bool) :
    aluAdc a b c =
      (BitVec.ofNat 8 (a.toNat + b.toNat + c.toNat),
        { z := decide ((a.toNat + b.toNat + c.toNat) % 256 = 0), n := false,
          h := decide (a.toNat % 16 + b.toNat % 16 + c.toNat > 0xF), c := decide (a.toNat + b.toNat + c.toNat > 0xFF) }) := by
  have hc := c.toNat_le
  have res : (a.toNat : Int) + b.toNat + c.toNat = ((a.toNat + b.toNat + c.toNat : Nat) : Int) := rfl
  rw [aluAdc, sumResult, res, BitVec.ofInt_natCast, ofNat_beq_zero, halfMix_eq]
  simp only [Prod.mk.injEq, Flags.mk.injEq, decide_eq_decide, true_and]
  omega

/-- ADD, as ADC without a carry in (R361). -/
theorem aluAdd_eq (a b : Byte) (c : Bool) :
    aluAdd a b c =
      (BitVec.ofNat 8 (a.toNat + b.toNat),
        { z := decide ((a.toNat + b.toNat) % 256 = 0), n := false, h := decide (a.toNat % 16 + b.toNat % 16 > 0xF),
          c := decide (a.toNat + b.toNat > 0xFF) }) :=
  aluAdc_eq a b false

/-- A difference modulo 256 without a negative number. -/
theorem ofInt_sub_sub (a b : Byte) {c : Nat} (hc : c ≤ 1) :
    BitVec.ofInt 8 ((a.toNat : Int) - b.toNat - c) = BitVec.ofNat 8 (a.toNat + 256 - b.toNat - c) := by
  apply BitVec.eq_of_toNat_eq
  rw [BitVec.toNat_ofInt, BitVec.toNat_ofNat]
  omega

/-- SBC on numbers (R364). -/
theorem aluSbc_eq (a b : Byte) (c : Bool) :
    aluSbc a b c =
      (BitVec.ofNat 8 (a.toNat + 256 - b.toNat - c.toNat),
        { z := decide ((a.toNat + 256 - b.toNat - c.toNat) % 256 = 0), n := true,
          h := decide (a.toNat % 16 < b.toNat % 16 + c.toNat), c := decide (a.toNat < b.toNat + c.toNat) }) := by
  have hc := c.toNat_le
  rw [aluSbc, differenceResult, ofInt_sub_sub a b hc, ofNat_beq_zero, halfMix_eq]
  simp only [Prod.mk.injEq, Flags.mk.injEq, decide_eq_decide, true_and]
  omega

/-- SUB, as SBC without a carry in (R363). -/
theorem aluSub_eq (a b : Byte) (c : Bool) :
    aluSub a b c =
      (BitVec.ofNat 8 (a.toNat + 256 - b.toNat),
        { z := decide (a.toNat = b.toNat), n := true, h := decide (a.toNat % 16 < b.toNat % 16),
          c := decide (a.toNat < b.toNat) }) := by
  have sub : aluSub a b c = aluSbc a b false := by
    rw [aluSub, aluSbc, Bool.toNat_false, Int.natCast_zero, Int.sub_zero]
  have zero : (a.toNat + 256 - b.toNat) % 256 = 0 ↔ a.toNat = b.toNat := by omega
  simp only [sub, aluSbc_eq, Bool.toNat_false, Nat.sub_zero, Nat.add_zero, zero]

/-- CP is SUB with A written back (R368). -/
theorem aluCp_eq (a b : Byte) (c : Bool) :
    aluCp a b c =
      (a, { z := decide (a.toNat = b.toNat), n := true, h := decide (a.toNat % 16 < b.toNat % 16),
            c := decide (a.toNat < b.toNat) }) :=
  congrArg (fun r : Byte × Flags => (a, r.2)) (aluSub_eq a b c)

/-- Settles O15: every form is one write of A and F, and the mix of R361 and R362 is the carry out of bit 3. -/
theorem addResult : Obligations.AddResult :=
  fun s _ => ⟨exec_aluInstr .add (aluAdd_eq _ _ s.cpu.f.c), exec_aluInstr .adc (aluAdc_eq _ _ _)⟩

/-- Settles O16: every form is one write of A and F, the mix of R363 and R364 is the borrow into bit 4, and CP writes A back. -/
theorem subResult : Obligations.SubResult := fun s _ =>
  ⟨exec_aluInstr .sub (aluSub_eq _ _ s.cpu.f.c), exec_aluInstr .sbc (aluSbc_eq _ _ _),
    exec_aluInstr .cp (aluCp_eq _ _ s.cpu.f.c)⟩

/-! ## Bit by bit (R365 to R367) and the flag operations (R374 to R376) -/

/-- The frame of an operation that writes A and F. -/
theorem Cpu.onlyWrites_setA_setF (c : Cpu) (v : Byte) (f : Flags) : c.OnlyWrites { c with a := v, f := f } [.a] :=
  (c.onlyWrites_set8 .a v).setF f

/-- CPL as a subtraction (R374). -/
theorem toNat_cplResult (a : Byte) (f : Flags) : (cplResult a f).1.toNat = 255 - a.toNat := by
  show (a ^^^ BitVec.allOnes 8).toNat = _
  rw [BitVec.xor_allOnes, BitVec.toNat_not]

/-- Settles O17: AND, XOR and OR are one write of A and F, with the bits of the library's operations. -/
theorem logicResult : Obligations.LogicResult := by
  refine ⟨fun s src => ⟨?_, ?_, ?_⟩, fun s => ⟨?_, rfl, rfl⟩⟩
  · exact ⟨_, exec_aluInstr .and rfl, sameOutside_withCpu _ _, s.cpu.onlyWrites_setA_setF _ _, fun _ => BitVec.getLsbD_and, rfl⟩
  · exact ⟨_, exec_aluInstr .xor rfl, sameOutside_withCpu _ _, s.cpu.onlyWrites_setA_setF _ _, fun _ => BitVec.getLsbD_xor, rfl⟩
  · exact ⟨_, exec_aluInstr .or rfl, sameOutside_withCpu _ _, s.cpu.onlyWrites_setA_setF _ _, fun _ => BitVec.getLsbD_or, rfl⟩
  · exact ⟨_, rfl, sameOutside_withCpu _ _, s.cpu.onlyWrites_setA_setF _ _, toNat_cplResult s.cpu.a s.cpu.f, rfl⟩

/-! ## INC and DEC (R369 to R372) -/

theorem extractLow_beq (v : Byte) (k : BitVec 4) : (v.extractLsb' 0 4 == k) = decide (v.toNat % 16 = k.toNat) := by
  rw [Bool.beq_eq_decide_eq, decide_eq_decide, ← BitVec.toNat_inj, BitVec.extractLsb'_toNat]
  rfl

/-- INC on numbers (R369). -/
theorem incResult_eq (v : Byte) (f : Flags) :
    incResult v f =
      (BitVec.ofNat 8 (v.toNat + 1),
        { z := decide (v.toNat = 255), n := false, h := decide (v.toNat % 16 = 15), c := f.c }) := by
  have res : v + 1 = BitVec.ofNat 8 (v.toNat + 1) := by bv_omega
  have zero : (v.toNat + 1) % 256 = 0 ↔ v.toNat = 255 := by omega
  rw [incResult, extractLow_beq, res, ofNat_beq_zero, decide_eq_decide.2 zero]
  rfl

/-- DEC on numbers (R370). -/
theorem decResult_eq (v : Byte) (f : Flags) :
    decResult v f =
      (BitVec.ofNat 8 (v.toNat + 255),
        { z := decide (v.toNat = 1), n := true, h := decide (v.toNat % 16 = 0), c := f.c }) := by
  have res : v - 1 = BitVec.ofNat 8 (v.toNat + 255) := by bv_omega
  have zero : (v.toNat + 255) % 256 = 0 ↔ v.toNat = 1 := by omega
  rw [decResult, extractLow_beq, res, ofNat_beq_zero, decide_eq_decide.2 zero]
  rfl

theorem Cpu.get8_setF (c : Cpu) (r : R8) (f : Flags) : ({ c with f := f } : Cpu).get8 r = c.get8 r := by
  cases r <;> rfl

/-- What a one-operand operation leaves that answers the byte `n` modulo 256 and the flags `f`. -/
theorem modifyReg_result {o : Host.Outcome State Fault Refusal} {g : Byte → Flags → Byte × Flags} {dst : R8} {s : State}
    {n : Nat} {f : Flags} (ho : o = .next (modifyReg g dst s))
    (hg : g (s.cpu.get8 dst) s.cpu.f = (BitVec.ofNat 8 n, f)) :
    ∃ t, o = .next t ∧ SameOutside s t ∧ s.cpu.OnlyWrites t.cpu [dst] ∧ (t.cpu.get8 dst).toNat = n % 256 ∧
      t.cpu.f = f := by
  have eq : modifyReg g dst s = s.withCpu { s.cpu.set8 dst (BitVec.ofNat 8 n) with f := f } := by
    rw [modifyReg, hg]
    rfl
  refine ⟨_, ho, eq ▸ sameOutside_withCpu _ _, eq ▸ (s.cpu.onlyWrites_set8 dst _).setF f, ?_, eq ▸ rfl⟩
  rw [eq, State.withCpu_cpu, Cpu.get8_setF, Cpu.get8_set8_self, BitVec.toNat_ofNat]

/-- Settles O18: the register forms are one write of the register and F, the (HL) forms a read, a store and a write of F. -/
theorem incDecResult : Obligations.IncDecResult := by
  refine fun s => ⟨fun r => modifyReg_result rfl (incResult_eq _ _), fun r => modifyReg_result rfl (decResult_eq _ _),
    ?_, ?_⟩
  · show Host.Outcome.next (modifyHl incResult s) = _
    rw [modifyHl_eq, incResult_eq]
  · show Host.Outcome.next (modifyHl decResult s) = _
    rw [modifyHl_eq, decResult_eq]

/-! ## DAA (R373) -/

/-- C is set where the high adjust applies, which only ADD's branch can add to the old C. -/
theorem daaResult_carry (a : Byte) (f : Flags) :
    (daaResult a f).2.c = (f.c || (!f.n && decide (a.toNat > 0x99))) := by
  cases hn : f.n <;> simp [daaResult, hn]

/-- The branch N = 0. -/
theorem toNat_daaResult_add (a : Byte) {f : Flags} (hn : f.n = false) :
    (daaResult a f).1.toNat =
      (a.toNat + (if (daaResult a f).2.c then 0x60 else 0) + (if f.h = true ∨ a.toNat % 16 > 9 then 0x06 else 0)) % 256 := by
  simp only [daaResult, hn, Bool.false_eq_true, if_false, BitVec.toNat_ofInt, Bool.or_eq_true, decide_eq_true_eq]
  split_ifs <;> omega

/-- The branch N = 1. -/
theorem toNat_daaResult_sub (a : Byte) {f : Flags} (hn : f.n = true) :
    ((daaResult a f).1.toNat + (if f.c then 0x60 else 0) + (if f.h then 0x06 else 0)) % 256 = a.toNat := by
  simp only [daaResult, hn, if_true, BitVec.toNat_ofInt]
  split_ifs <;> omega

theorem toNat_bcd {x : Nat} (hx : x < 100) : (bcd x).toNat = 16 * (x / 10) + x % 10 := by
  rw [bcd, BitVec.toNat_ofNat]
  omega

section
variable {x y : Nat} (hx : x < 100) (hy : y < 100) {c : Bool} {a : Byte} {f : Flags}
include hx hy

/-- After ADD the high adjust applies where the decimal sum carries, and the low adjust where the sum of the low digits does. -/
theorem daaResult_of_aluAdd_bcd (h : aluAdd (bcd x) (bcd y) c = (a, f)) :
    (daaResult a f).1 = bcd ((x + y) % 100) ∧ (daaResult a f).2.c = decide (100 ≤ x + y) := by
  rw [aluAdd_eq, toNat_bcd hx, toNat_bcd hy, Prod.mk.injEq] at h
  obtain ⟨ha, hf⟩ := h
  have toNat_a := (congrArg BitVec.toNat ha).symm.trans (BitVec.toNat_ofNat _ _)
  have high : (daaResult a f).2.c = decide (100 ≤ x + y) := by
    rw [daaResult_carry, Bool.eq_iff_iff]
    simp only [← hf, Bool.or_eq_true, decide_eq_true_eq, Bool.not_false, Bool.true_and]
    have sum : 100 ≤ x + y ↔ 0x99 < 16 * (x / 10) + x % 10 + (16 * (y / 10) + y % 10) := by omega
    rw [sum]
    omega
  have low : (f.h = true ∨ a.toNat % 16 > 9) ↔ 10 ≤ x % 10 + y % 10 := by
    simp only [← hf, decide_eq_true_eq]
    omega
  refine ⟨BitVec.eq_of_toNat_eq ?_, high⟩
  rw [toNat_daaResult_add a (congrArg Flags.n hf.symm), high, toNat_bcd (by omega)]
  simp only [low, decide_eq_true_eq]
  split_ifs <;> omega

/-- After SUB the high adjust applies where the decimal difference borrows, and the low adjust where that of the low digits
does. -/
theorem daaResult_of_aluSub_bcd (h : aluSub (bcd x) (bcd y) c = (a, f)) :
    (daaResult a f).1 = bcd ((x + 100 - y) % 100) ∧ (daaResult a f).2.c = decide (x < y) := by
  rw [aluSub_eq, toNat_bcd hx, toNat_bcd hy, Prod.mk.injEq] at h
  obtain ⟨ha, hf⟩ := h
  have toNat_a := (congrArg BitVec.toNat ha).symm.trans (BitVec.toNat_ofNat _ _)
  have high : f.c = decide (x < y) := by
    rw [← hf, decide_eq_decide]
    omega
  have low : f.h = decide (x % 10 < y % 10) := by
    rw [← hf, decide_eq_decide]
    omega
  have hn : f.n = true := congrArg Flags.n hf.symm
  have adjusted := toNat_daaResult_sub a hn
  simp only [high, low, decide_eq_true_eq] at adjusted
  refine ⟨BitVec.eq_of_toNat_eq ?_, by rw [daaResult_carry, hn, high, Bool.not_true, Bool.false_and, Bool.or_false]⟩
  rw [toNat_bcd (by omega)]
  split_ifs at adjusted <;> omega

end

/-- Settles O19: DAA is one write of A and F, and on the answers of ADD and SUB for two decimal bytes it is decimal. -/
theorem decimalAdjust : Obligations.DecimalAdjust := by
  refine ⟨fun s => ⟨_, rfl, sameOutside_withCpu _ _, s.cpu.onlyWrites_setA_setF _ _, rfl, rfl, rfl,
    daaResult_carry s.cpu.a s.cpu.f, toNat_daaResult_add s.cpu.a, toNat_daaResult_sub s.cpu.a⟩, fun s u x y hx hy ha => ⟨?_, ?_⟩⟩
  · rintro ⟨⟩
    exact ⟨_, rfl, daaResult_of_aluAdd_bcd hx hy (congrArg (aluAdd · (bcd y) s.cpu.f.c) ha.symm)⟩
  · rintro ⟨⟩
    exact ⟨_, rfl, daaResult_of_aluSub_bcd hx hy (congrArg (aluSub · (bcd y) s.cpu.f.c) ha.symm)⟩

end Sys2Proof.Machine
end

section
/-! PROOFS. 43_alu16.md R400 to R402: ADD HL,rr, and INC and DEC of a pair. -/

namespace Sys2Proof.Machine

theorem execIncRr_eq (p : R16) (s : State) :
    execIncRr p s = .next ((cycle s).withCpu (s.cpu.set16 p (s.cpu.get16 p + 1))) := by
  rw [execIncRr, internal_eq, cycle_cpu, State.set16_eq, cycle_cpu]

theorem execDecRr_eq (p : R16) (s : State) :
    execDecRr p s = .next ((cycle s).withCpu (s.cpu.set16 p (s.cpu.get16 p - 1))) := by
  rw [execDecRr, internal_eq, cycle_cpu, State.set16_eq, cycle_cpu]

/-- The sum of ADD HL,rr is that of the two words, modulo 65536 (R400). -/
theorem toNat_addHlResult (a b : Word) (f : Flags) : (addHlResult a b f).1.toNat = (a.toNat + b.toNat) % 65536 :=
  BitVec.toNat_ofNat _ _

/-- What ends in the write of one pair leaves the value there, and F, every other pair and the rest of the machine as they
were before that write. -/
theorem set16_result {o : Host.Outcome State Fault Refusal} {u : State} {c : Cpu} {p : R16} {v : Word} {n : Nat}
    (ho : o = .next (u.withCpu (c.set16 p v))) (hv : v.toNat = n) :
    ∃ t, o = .next t ∧ SameOutside u t ∧ t.cpu.f = c.f ∧ (t.cpu.get16 p).toNat = n ∧
      (∀ q, q ≠ p → t.cpu.get16 q = c.get16 q) ∧ t.cpu.a = c.a ∧ t.cpu.pc = c.pc ∧ t.cpu.ime = c.ime ∧
      t.cpu.eiPending = c.eiPending ∧ t.cpu.halted = c.halted := by
  have value : ((c.set16 p v).get16 p).toNat = n := by rw [c.get16_set16, hv]
  have others : ∀ q, q ≠ p → (c.set16 p v).get16 q = c.get16 q := fun q hq => by rw [c.get16_set16_eq, if_neg hq]
  exact ⟨_, ho, sameOutside_withCpu u _, c.set16_f p v, value, others, c.set16_a p v, c.set16_pc p v, c.set16_ime p v,
    c.set16_eiPending p v, c.set16_halted p v⟩

/-- Settles O20: ADD HL,rr is one write of HL and F, INC rr and DEC rr one write of the pair, each after its slot. -/
theorem pairArithmetic : Obligations.PairArithmetic := by
  intro s p
  refine ⟨?_, ?_, ?_⟩
  · refine ⟨_, execAddHlRr_eq s p, sameOutside_withCpu _ _, (s.cpu.onlyWrites_setHl _).setF _, ?_, rfl⟩
    exact (congrArg BitVec.toNat (s.cpu.setHl_hl _)).trans (toNat_addHlResult _ _ _)
  · exact set16_result (execIncRr_eq p s) (BitVec.toNat_add _ _)
  · refine set16_result (execDecRr_eq p s) ?_
    rw [BitVec.toNat_sub, Nat.add_comm]
    rfl

end Sys2Proof.Machine
end

section
/-! PROOFS. 44_rotate_shift.md R420 to R432: the eight CB rotates and shifts, and the four rotates of A. -/

namespace Sys2Proof.Machine

/-! ## A byte moved by one place, and its halves exchanged -/

section
variable (b : Byte)

theorem getLsbD_seven_eq_div : b.getLsbD 7 = decide (b.toNat / 128 = 1) := by
  have top : b.getLsbD 7 = decide (b.toNat / 2 ^ 7 % 2 = 1) := Nat.testBit_eq_decide_div_mod_eq
  rw [top, decide_eq_decide]
  omega

/-- To the left the byte doubles, and the bit that enters at the bottom adds its value. -/
theorem toNat_shiftLeft_one_or {low : Byte} {n : Nat} (h : low.toNat = n) (hn : n < 2) :
    (b <<< 1 ||| low).toNat = (2 * b.toNat + n) % 256 := by
  subst h
  calc (b <<< 1 ||| low).toNat
    _ = b.toNat <<< 1 % 2 ^ 8 ||| low.toNat % 2 ^ 8 := by
      rw [BitVec.toNat_or, BitVec.toNat_shiftLeft, Nat.mod_eq_of_lt low.isLt]
    _ = (b.toNat <<< 1 + low.toNat) % 2 ^ 8 := by
      rw [← Nat.or_mod_two_pow, Nat.shiftLeft_add_eq_or_of_lt hn]
    _ = (2 * b.toNat + low.toNat) % 256 := by rw [Nat.shiftLeft_eq, Nat.mul_comm]; rfl

/-- To the right the byte halves, and the bit that enters at the top adds 128 times its value. -/
theorem toNat_ushiftRight_one_or {high : Byte} {n : Nat} (h : high.toNat = 128 * n) :
    (b >>> 1 ||| high).toNat = b.toNat / 2 + 128 * n := by
  have half : b.toNat / 2 < 2 ^ 7 := by omega
  rw [BitVec.toNat_or, BitVec.toNat_ushiftRight, Nat.shiftRight_one, h, Nat.or_comm, Nat.add_comm]
  exact (Nat.two_pow_add_eq_or_of_lt half n).symm

theorem toNat_ushiftRight_seven : (b >>> 7).toNat = b.toNat / 128 := Nat.shiftRight_eq_div_pow _ _

theorem toNat_shiftLeft_seven : (b <<< 7).toNat = 128 * (b.toNat % 2) := by
  rw [BitVec.toNat_shiftLeft, Nat.shiftLeft_eq]
  omega

theorem toNat_and_top : (b &&& 0x80).toNat = 128 * (b.toNat / 128) := by
  have mask : (b &&& 0x80).toNat = (b.toNat.testBit 7).toNat * 2 ^ 7 := Nat.and_two_pow b.toNat 7
  rw [mask, Nat.toNat_testBit]
  omega

theorem toNat_swapNibbles :
    (b.extractLsb' 0 4 ++ b.extractLsb' 4 4).toNat = 16 * (b.toNat % 16) + b.toNat / 16 := by
  have high : (b.extractLsb' 4 4).toNat = b.toNat / 16 := by
    rw [BitVec.extractLsb'_toNat, Nat.shiftRight_eq_div_pow]
    omega
  rw [BitVec.toNat_append, ← Nat.shiftLeft_add_eq_or_of_lt (b.extractLsb' 4 4).isLt, high, Nat.shiftLeft_eq, Nat.mul_comm,
    BitVec.extractLsb'_toNat]
  rfl

end

/-! ## The eight operations on numbers (R424 to R432) -/

/-- The model's operation of each name (R425 to R432). -/
def ShiftName.op : ShiftName → ShiftOp
  | .rlc => shRlc
  | .rrc => shRrc
  | .rl => shRl
  | .rr => shRr
  | .sla => shSla
  | .sra => shSra
  | .swap => shSwap
  | .srl => shSrl

section
variable (n : ShiftName) (b : Byte) (c : Bool)

theorem ShiftName.op_carry : (n.op b c).2 = decide (n.carry b.toNat = 1) := by
  cases n
  case rlc | rl | sla => exact getLsbD_seven_eq_div b
  case rrc | rr | sra | srl => exact Nat.testBit_zero b.toNat
  case swap => rfl

/-- Each operation by the bit that enters: at the bottom for RLC and RL, at the top for RRC, RR and SRA, a 0 for SLA and SRL. -/
theorem ShiftName.toNat_op_result : (n.op b c).1.toNat = n.result b.toNat c.toNat := by
  cases n with
  | rlc => exact toNat_shiftLeft_one_or b (toNat_ushiftRight_seven b) (by omega)
  | rrc => exact toNat_ushiftRight_one_or b (toNat_shiftLeft_seven b)
  | rl => exact toNat_shiftLeft_one_or b (by cases c <;> rfl) c.toNat_lt
  | rr => exact toNat_ushiftRight_one_or b (by cases c <;> rfl)
  | sla =>
    show (b <<< 1).toNat = 2 * b.toNat % 256
    rw [BitVec.toNat_shiftLeft, Nat.shiftLeft_eq, Nat.mul_comm]
  | sra => exact toNat_ushiftRight_one_or b (toNat_and_top b)
  | swap => exact toNat_swapNibbles b
  | srl => exact Nat.shiftRight_one _

theorem ShiftName.op_eq : n.op b c = (BitVec.ofNat 8 (n.result b.toNat c.toNat), decide (n.carry b.toNat = 1)) := by
  rw [← n.toNat_op_result, BitVec.ofNat_toNat, BitVec.setWidth_eq, ← n.op_carry b c]

/-- Z is "normal" (R424): the result is a byte, so it is 0 as a number where it is 0 as a byte. -/
theorem ShiftName.shiftFlags_op :
    shiftFlags (n.op b c) =
      { z := decide (n.result b.toNat c.toNat = 0), n := false, h := false, c := decide (n.carry b.toNat = 1) } := by
  have lt : n.result b.toNat c.toNat < 256 := n.toNat_op_result b c ▸ BitVec.isLt _
  rw [n.op_eq, shiftFlags, ofNat_beq_zero, Nat.mod_eq_of_lt lt]

end

/-! ## The instructions -/

theorem exec_regForm (n : ShiftName) (r : R8) (s : State) : exec (n.regForm r) s = .next (shiftReg n.op r s) := by
  cases n <;> rfl

theorem exec_hlForm (n : ShiftName) (s : State) : exec n.hlForm s = .next (shiftHl n.op s) := by
  cases n <;> rfl

/-- A rotate of A is one write of A and F, with the CB operation's result and carry. -/
theorem rotateA_result {o : Host.Outcome State Fault Refusal} {s : State} (n : ShiftName)
    (ho : o = .next (rotateA n.op s)) :
    ∃ t, o = .next t ∧ SameOutside s t ∧ s.cpu.OnlyWrites t.cpu [.a] ∧
      t.cpu.a.toNat = n.result s.cpu.a.toNat s.cpu.f.c.toNat ∧
      t.cpu.f = { z := false, n := false, h := false, c := decide (n.carry s.cpu.a.toNat = 1) } :=
  ⟨_, ho, sameOutside_withCpu _ _, s.cpu.onlyWrites_setA_setF _ _, n.toNat_op_result _ _,
    congrArg (Flags.mk false false false) (n.op_carry _ _)⟩

/-- Settles O21: the register forms are one write of the register and F, the (HL) forms a read, a store and a write of F, and
the rotates of A one write of A and F. -/
theorem shiftResult : Obligations.ShiftResult := by
  refine ⟨fun s n => ⟨fun r => ?_, ?_⟩, fun s =>
    ⟨rotateA_result .rlc rfl, rotateA_result .rrc rfl, rotateA_result .rl rfl, rotateA_result .rr rfl⟩⟩
  · refine ⟨_, exec_regForm n r s, sameOutside_withCpu _ _, (s.cpu.onlyWrites_set8 r _).setF _, ?_, n.shiftFlags_op _ _⟩
    exact (congrArg BitVec.toNat ((Cpu.get8_setF _ _ _).trans (Cpu.get8_set8_self _ _ _))).trans (n.toNat_op_result _ _)
  · show exec n.hlForm s = _
    rw [exec_hlForm, shiftHl_eq, n.shiftFlags_op, n.op_eq]

end Sys2Proof.Machine
end

section
/-! PROOFS. 45_bit.md R450 to R452: BIT, RES and SET. -/

namespace Sys2Proof.Machine

/-! ## One bit of a byte -/

section
variable (b : Index3) (v : Byte) {k : Nat} (hk : k < 8)

theorem getLsbD_one_shiftLeft_index : (1#8 <<< b.toNat).getLsbD k = decide (k = b.toNat) := by
  have mask : (1#8 <<< b.toNat).getLsbD k = (decide (b.toNat < 8) && decide (b.toNat = k)) := BitVec.getLsbD_twoPow _ _
  have index : b.toNat < 8 := b.isLt
  rw [mask, decide_eq_true index, Bool.true_and, decide_eq_decide, eq_comm]

theorem getLsbD_setBit : (setBit b v).getLsbD k = if k = b.toNat then true else v.getLsbD k := by
  rw [setBit, BitVec.getLsbD_or, getLsbD_one_shiftLeft_index]
  split
  next h => rw [decide_eq_true h, Bool.or_true]
  next h => rw [decide_eq_false h, Bool.or_false]

include hk

theorem getLsbD_clearBit : (clearBit b v).getLsbD k = if k = b.toNat then false else v.getLsbD k := by
  rw [clearBit, BitVec.getLsbD_and, BitVec.getLsbD_not, decide_eq_true hk, Bool.true_and, getLsbD_one_shiftLeft_index]
  split
  next h => rw [decide_eq_true h, Bool.not_true, Bool.and_false]
  next h => rw [decide_eq_false h, Bool.not_false, Bool.and_true]

end

/-! ## The instructions -/

section
variable {o : Host.Outcome State Fault Refusal} {s : State} {g : Byte → Byte} {bits : Nat → Bool}

/-- The register form of RES and SET, by the bits of its result. -/
theorem set8_bits {r : R8} (ho : o = .next (s.set8 r (g (s.cpu.get8 r))))
    (hg : ∀ k, k < 8 → (g (s.cpu.get8 r)).getLsbD k = bits k) :
    ∃ t, o = .next t ∧ SameOutside s t ∧ s.cpu.OnlyWrites t.cpu [r] ∧ t.cpu.f = s.cpu.f ∧
      ∀ k, k < 8 → (t.cpu.get8 r).getLsbD k = bits k := by
  obtain ⟨t, next, value, writes, flags, outside⟩ := set8_result ho
  exact ⟨t, next, outside, writes, flags, value ▸ hg⟩

/-- The (HL) form of RES and SET, by the bits of the byte it stores. -/
theorem editHl_bits (ho : o = .next (editHl g s))
    (hg : ∀ k, k < 8 → (g (busRead (cycle s) s.cpu.hl)).getLsbD k = bits k) :
    ∃ v : Byte, o = .next ((busWrite (cycle (cycle s)) s.cpu.hl v).withCpu s.cpu) ∧ ∀ k, k < 8 → v.getLsbD k = bits k := by
  have registers (v : Byte) : (busWrite (cycle (cycle s)) s.cpu.hl v).cpu = s.cpu := by
    rw [busWrite_cpu, cycle_cpu, cycle_cpu]
  exact ⟨_, by rw [ho, editHl_eq, withCpu_of_cpu (registers _)], hg⟩

end

/-- Settles O22: BIT is one write of F, RES and SET are one write of the register, or a read and a store, with the bits of
`clearBit` and `setBit`. -/
theorem bitResult : Obligations.BitResult := fun s b =>
  ⟨fun _ => rfl, execBitHl_eq s b,
    fun _ => set8_bits rfl fun _ => getLsbD_clearBit b _, fun _ => set8_bits rfl fun _ _ => getLsbD_setBit b _,
    editHl_bits rfl fun _ => getLsbD_clearBit b _, editHl_bits rfl fun _ _ => getLsbD_setBit b _⟩

end Sys2Proof.Machine
end

section
/-! PROOFS. 46_control.md R470 to R475 and R478 to R480: the jumps and the returns. -/

namespace Sys2Proof.Machine

/-! ## The jumps (R470 to R475) -/

/-- The target of JR, PC plus the signed displacement modulo 65536 (R474). -/
theorem toNat_add_displacement (pc : Word) (e : Byte) :
    ((pc + displacement e).toNat : Int) = ((pc.toNat : Int) + e.toInt) % 65536 := by
  have offset := toNat_signExtend_byte e
  rw [displacement, BitVec.toNat_add]
  omega

/-- A relative jump is one slot and a write of PC, with the signed sum in it. -/
theorem jumpTo_displacement (s : State) (e : Byte) :
    jumpTo (s.cpu.pc + displacement e) s =
        (cycle s).withCpu { s.cpu with pc := (jumpTo (s.cpu.pc + displacement e) s).cpu.pc } ∧
      ((jumpTo (s.cpu.pc + displacement e) s).cpu.pc.toNat : Int) = ((s.cpu.pc.toNat : Int) + e.toInt) % 65536 :=
  ⟨jumpTo_eq s _, toNat_add_displacement s.cpu.pc e⟩

/-- Settles O23: every taken jump but JP HL is `jumpTo`, one slot and a write of PC, and a jump that is not taken is nothing. -/
theorem jumps : Obligations.Jumps := by
  intro s
  refine ⟨fun a => ?_, fun cc a => ?_, rfl, fun e => ⟨_, rfl, jumpTo_displacement s e⟩, fun cc e => ⟨_, rfl, ?_⟩,
    fun f => ⟨rfl, rfl, rfl, rfl⟩⟩
  · exact congrArg Host.Outcome.next (jumpTo_eq s a)
  · rw [← jumpTo_eq]
    rfl
  · split
    · exact jumpTo_displacement s e
    · rfl

/-! ## The returns (R478 to R480) -/

/-- `a <- Pop16(); Internal(); PC <- a` as one register write after three slots. -/
theorem returnTo_eq_add_two (s : State) :
    returnTo s =
      (cycle (cycle (cycle s))).withCpu
        { s.cpu with
          sp := s.cpu.sp + 2
          pc := cat16 (busRead (cycle (cycle s)) (s.cpu.sp + 1)) (busRead (cycle s) s.cpu.sp) } := by
  rw [returnTo_eq, pop16_eq_add_two, BitVec.add_assoc]
  rfl

/-- What RETI does is what RET does, and then IME is set. -/
theorem returnFromInterrupt_eq_returnTo (s : State) : returnFromInterrupt s = (returnTo s).setIme true := rfl

/-- Settles O24: each return is `returnTo`, RETI's with IME set after it, that of RET cc after the slot of the test. -/
theorem returns : Obligations.Returns := by
  intro s
  have afterTest := returnTo_eq_add_two (cycle s)
  rw [cycle_cpu] at afterTest
  refine ⟨congrArg Host.Outcome.next (returnTo_eq_add_two s), ?_, fun cc => ?_⟩
  · show Host.Outcome.next (returnFromInterrupt s) = _
    rw [returnFromInterrupt_eq_returnTo, returnTo_eq_add_two]
    rfl
  · show execRetCc cc s = _
    rw [← afterTest, execRetCc, internal_eq, cycle_cpu]

end Sys2Proof.Machine
end

section
/-! PROOFS. 47_system.md R501: PREFIX CB. -/

namespace Sys2Proof.Machine

theorem shiftHl_fault (op : ShiftOp) (s : State) : (shiftHl op s).fault = s.fault := by
  simp [shiftHl_eq]

theorem editHl_fault (f : Byte → Byte) (s : State) : (editHl f s).fault = s.fault := by
  simp [editHl_eq]

/-- Every row of the CB map answers a next state, and none of them raises a fatal fault: on a register a row is one register
write, on (HL) it is slots, a bus write and a write of F. -/
theorem execCb_keeps_fault (op2 : Byte) (s : State) : ∃ t, execCb op2 s = .next t ∧ t.fault = s.fault := by
  unfold execCb
  generalize fieldY op2 = y
  generalize fieldX op2 = x
  rcases r8Of (fieldZ op2) with _ | r
  · match x, y with
    | 0, 0 | 0, 1 | 0, 2 | 0, 3 | 0, 4 | 0, 5 | 0, 6 | 0, _ + 7 => exact ⟨_, rfl, shiftHl_fault _ s⟩
    | 1, _ => exact ⟨_, execBitHl_eq s _, cycle_fault s⟩
    | 2, _ | _ + 3, _ => exact ⟨_, rfl, editHl_fault _ s⟩
  · match x, y with
    | 0, 0 | 0, 1 | 0, 2 | 0, 3 | 0, 4 | 0, 5 | 0, 6 | 0, _ + 7 => exact ⟨_, rfl, rfl⟩
    | 1, _ | 2, _ | _ + 3, _ => exact ⟨_, rfl, rfl⟩

/-- Settles O5: the second byte's fetch keeps FAULT, and so does the row of the CB map that it selects. -/
theorem prefixRunsCbMap : Obligations.PrefixRunsCbMap := by
  intro s
  obtain ⟨t, ht, hf⟩ := execCb_keeps_fault (fetch8 s).1 (fetch8 s).2
  have fetched : (fetch8 s).2.fault = s.fault := by simp [fetch8_eq]
  exact ⟨exec_prefixCb s, t, ht, hf.trans fetched⟩

end Sys2Proof.Machine
end

section
/-! PROOFS. 60_exceptions.md R601 to R612, 00_scope.md R11, 70_reset_and_hazards.md R1020: the fetch, the boundary of a step, the
slots of an instruction, and where the machine stops. -/

namespace Sys2Proof.Machine

/-! ## The fetch slots (R601 d) -/

theorem repeatN_one {α : Type} (f : α → α) (x : α) : repeatN f 1 x = f x := rfl

theorem repeatN_three {α : Type} (f : α → α) (x : α) : repeatN f 3 x = f (f (f x)) := rfl

theorem repeatN_succ_apply {α : Type} (f : α → α) (n : Nat) (x : α) : repeatN f (n + 1) x = f (repeatN f n x) := by
  induction n generalizing x with
  | zero => rfl
  | succ n ih => exact ih (f x)

theorem repeatN_add {α : Type} (f : α → α) (m n : Nat) (x : α) : repeatN f (m + n) x = repeatN f n (repeatN f m x) := by
  induction n with
  | zero => rfl
  | succ n ih => rw [← Nat.add_assoc, repeatN_succ_apply, ih, repeatN_succ_apply]

theorem add_ofNat_succ {w : Nat} (x : BitVec w) (k : Nat) : x + BitVec.ofNat w (k + 1) = x + BitVec.ofNat w k + 1 := by
  rw [BitVec.ofNat_add, BitVec.add_assoc]
  rfl

/-- The byte that the fetch slot after `k` others reads at PC + `k`. -/
def fetchedByte (u : State) (k : Nat) : Byte := busRead (repeatN cycle (k + 1) u) (u.cpu.pc + BitVec.ofNat 16 k)

/-- The machine with `n` fetch slots spent and PC past their bytes. -/
def fetched (n : Nat) (u : State) : State := (repeatN cycle n u).setPc (u.cpu.pc + BitVec.ofNat 16 n)

theorem repeatN_cycle_cpu (n : Nat) (u : State) : (repeatN cycle n u).cpu = u.cpu :=
  cpu_of_withCpu (f := repeatN cycle n) u fun u c => withCpu_repeatN u c withCpu_cycle n

theorem fetched_zero (u : State) : fetched 0 u = u := by
  rw [fetched, BitVec.add_zero]
  rfl

/-- `Fetch8()` after `k` fetches. -/
theorem fetch8_fetched (k : Nat) (u : State) : fetch8 (fetched k u) = (fetchedByte u k, fetched (k + 1) u) := by
  simp only [fetch8_eq, fetched, fetchedByte, State.setPc_eq, withCpu_cycle, withCpu_busRead, State.withCpu_cpu,
    State.withCpu_withCpu, repeatN_cycle_cpu, ← repeatN_succ_apply, ← add_ofNat_succ]

theorem fetch8_eq_fetched (u : State) : fetch8 u = (fetchedByte u 0, fetched 1 u) := by
  rw [← fetch8_fetched, fetched_zero]

section
variable {u : State}

theorem fetchInstr_plain (h : operandBytes (fetchedByte u 0) = 0) :
    fetchInstr u = (decodeOp (fetchedByte u 0) 0 0, fetched 1 u) := by
  simp only [fetchInstr, fetch8_eq_fetched u, h]

theorem fetchInstr_byte (h : operandBytes (fetchedByte u 0) = 1) :
    fetchInstr u = (decodeOp (fetchedByte u 0) (fetchedByte u 1) 0, fetched 2 u) := by
  simp only [fetchInstr, fetch8_eq_fetched u, fetch8_fetched, h]

theorem fetchInstr_word (h : operandBytes (fetchedByte u 0) = 2) :
    fetchInstr u = (decodeOp (fetchedByte u 0) (fetchedByte u 1) (fetchedByte u 2), fetched 3 u) := by
  simp only [fetchInstr, fetch8_eq_fetched u, fetch8_fetched, h]

end

/-- At most two bytes follow the opcode. -/
theorem operandBytes_le_two : ∀ op : Byte, operandBytes op ≤ 2 := by decide

/-- Where the fetch slots read bytes that decode to an instruction, that instruction is fetched, and just those bytes. -/
theorem fetchInstr_of_decode {u : State} {bytes : List Byte} {i : Instr} (h : decode bytes = .ok (i, []))
    (hi : i ≠ .prefixCb) (hb : ∀ k, k < bytes.length → fetchedByte u k = bytes.getD k 0) :
    fetchInstr u = (i, fetched bytes.length u) := by
  unfold decode at h
  split at h
  · cases h
  next op tail =>
    have first := hb 0 (Nat.zero_lt_succ _)
    split at h
    · cases h
      exact absurd rfl hi
    · rw [List.getD_cons_zero] at first
      split at h
      next hn _ =>
        cases h
        rw [fetchInstr_plain (first.symm ▸ hn), first]
        rfl
      next b _ hn _ =>
        cases h
        have second := hb 1 (by simp)
        rw [fetchInstr_byte (first.symm ▸ hn), first, second]
        rfl
      next b1 b2 _ hn _ =>
        cases h
        have second := hb 1 (by simp)
        have third := hb 2 (by simp)
        rw [fetchInstr_word (first.symm ▸ hn), first, second, third]
        rfl
      · cases h

/-- What is fetched is an instruction of the maps, and not PREFIX CB alone. -/
theorem fetchInstr_wf (u : State) : (fetchInstr u).1.wf = true := by
  have hle := operandBytes_le_two (fetchedByte u 0)
  interval_cases hn : operandBytes (fetchedByte u 0)
  · exact fetchInstr_plain hn ▸ (encode_decodeOp_plain _ hn).2
  · exact fetchInstr_byte hn ▸ (encode_decodeOp_byte hn _).2
  · exact fetchInstr_word hn ▸ (encode_decodeOp_word hn _ _).2

/-! ## The boundary (R601 a and b) -/

theorem lowestPending_zero : lowestPending 0 = none := rfl

/-- The source selected is pending, and none below it is. -/
theorem lowestPending_eq_some : ∀ (p : BitVec 5) (k : Fin 5), p.getLsbD k = true → (∀ j : Fin 5, j < k → p.getLsbD j = false) →
    lowestPending p = some k := by decide

theorem exists_lowestPending : ∀ p : BitVec 5, p ≠ 0 → ∃ k, lowestPending p = some k := by decide

theorem serviceInterrupts_none {s : State} (h : pending s = 0) : serviceInterrupts s = s := by
  rw [serviceInterrupts, h, lowestPending_zero]

/-- With IME 0 a pending interrupt ends a HALT and no more. -/
theorem serviceInterrupts_disabled {s : State} (h : pending s ≠ 0) (hime : s.cpu.ime = false) :
    serviceInterrupts s = s.withCpu { s.cpu with halted := false } := by
  obtain ⟨k, hk⟩ := exists_lowestPending _ h
  rw [serviceInterrupts, hk]
  exact if_neg (by rw [State.withCpu_cpu, hime]; exact Bool.false_ne_true)

theorem pushed_fault (u : State) (sp v : Word) : (pushed u sp v).fault = u.fault := by
  simp only [pushed, busWrite_fault, cycle_fault]

theorem withCpu_pushed (u : State) (c : Cpu) (sp v : Word) : pushed (u.withCpu c) sp v = (pushed u sp v).withCpu c := by
  simp only [pushed, withCpu_cycle, withCpu_busWrite]

theorem withCpu_clearRequest (s : State) (c : Cpu) (k : Fin 5) :
    clearRequest k (s.withCpu c) = (clearRequest k s).withCpu c := rfl

/-- Taking an interrupt as slots, a push and the cleared IF bit before one register write (R604). -/
theorem takeInterrupt_eq (k : Fin 5) (s : State) :
    takeInterrupt k s =
      (cycle (clearRequest k (pushed (cycle (cycle (cycle s))) s.cpu.sp s.cpu.pc))).withCpu
        { s.cpu with ime := false, sp := s.cpu.sp - 2, pc := vectorOf k } := by
  have slots : repeatN internal (irqEntryPreCycles / slotCycles) (s.setIme false) =
      (cycle (cycle (cycle s))).withCpu { s.cpu with ime := false } := by
    have three : irqEntryPreCycles / slotCycles = 3 := rfl
    rw [three, repeatN_three]
    simp only [internal_eq, State.setIme_eq, withCpu_cycle]
  simp only [takeInterrupt, slots, push16_eq_pushed, withCpu_pushed, withCpu_clearRequest, State.setPc_eq, internal_eq,
    withCpu_cycle, State.withCpu_cpu, State.withCpu_withCpu]

/-- With IME set the selected source is entered from the machine with HALT ended (R603, R604). -/
theorem serviceInterrupts_enabled {s : State} {k : Fin 5} (h : lowestPending (pending s) = some k) (hime : s.cpu.ime = true) :
    serviceInterrupts s = takeInterrupt k (s.withCpu { s.cpu with halted := false }) := by
  rw [serviceInterrupts, h]
  exact if_pos hime

theorem takeInterrupt_fault (k : Fin 5) (s : State) : (takeInterrupt k s).fault = s.fault := by
  rw [takeInterrupt_eq, State.withCpu_fault, cycle_fault]
  show (pushed _ _ _).fault = _
  simp only [pushed_fault, cycle_fault]

theorem serviceInterrupts_fault (s : State) : (serviceInterrupts s).fault = s.fault := by
  by_cases h : pending s = 0
  · rw [serviceInterrupts_none h]
  · cases hime : s.cpu.ime
    · rw [serviceInterrupts_disabled h hime, State.withCpu_fault]
    · obtain ⟨k, hk⟩ := exists_lowestPending _ h
      rw [serviceInterrupts_enabled hk hime, takeInterrupt_fault, State.withCpu_fault]

theorem boundary_fault (s : State) : (boundary s).fault = s.fault := by
  rw [boundary, commitEi]
  split
  · exact serviceInterrupts_fault s
  · exact serviceInterrupts_fault s

theorem commitEi_of_not_pending {s : State} (h : s.cpu.eiPending = false) : commitEi s = s := by
  rw [commitEi, h]
  rfl

/-- With IME set and no EI latch, the boundary ends at the handler of the selected source. -/
theorem boundary_enters {s : State} {k : Fin 5} (h : lowestPending (pending s) = some k) (hime : s.cpu.ime = true)
    (hei : s.cpu.eiPending = false) : (boundary s).cpu.pc = vectorOf k ∧ (boundary s).cpu.ime = false := by
  have entered (u : State) : (takeInterrupt k u).cpu = _ := congrArg State.cpu (takeInterrupt_eq k u)
  rw [boundary, serviceInterrupts_enabled h hime, commitEi_of_not_pending (by rw [entered]; exact hei), entered]
  exact ⟨rfl, rfl⟩

theorem boundary_of_ready {s : State} (h : s.Ready) : boundary s = s := by
  rw [boundary, serviceInterrupts_none h.pending, commitEi_of_not_pending h.eiPending]

/-! ## The step by its branches (R601, R612) -/

section
variable {s : State}

theorem step_of_fault {r : FatalRecord} (h : s.fault = some r) : step s = .fault (.fatal r) := by
  rw [step, h]

/-- A step looks at FAULT and at what the boundary leaves, and at nothing else. -/
theorem step_eq_of_boundary {t : State} (hf : s.fault = t.fault) (hb : boundary s = boundary t) : step s = step t := by
  rw [step, step, hf, hb]

theorem step_of_halted (h : s.fault = none) (hh : (boundary s).cpu.halted = true) : step s = .next (cycle (boundary s)) := by
  rw [step, h]
  exact if_pos hh

theorem step_of_running (h : s.fault = none) (hh : (boundary s).cpu.halted = false) :
    step s = exec (fetchInstr (boundary s)).1 (fetchInstr (boundary s)).2 := by
  rw [step, h]
  exact if_neg (by rw [hh]; exact Bool.false_ne_true)

end

/-- Settles O4: the fetch slots read the encoding, so what is fetched is what the encoding decodes to. -/
theorem stepRunsDecoded : Obligations.StepRunsDecoded := by
  refine ⟨fun s i hf hh hwf hi hb => ?_, fun s => boundary_of_ready⟩
  have decoded : decode (encode i) = .ok (i, []) := by
    have h := decode_encode_append i [] hwf hi
    rwa [List.append_nil] at h
  rw [step_of_running hf hh, fetchInstr_of_decode decoded hi hb, fetched]

/-- Settles O34: the selected source is the lowest pending one, and its entry is `takeInterrupt` with HALT ended. -/
theorem interruptEntry : Obligations.InterruptEntry := by
  intro s k hime hk hlow p
  rw [serviceInterrupts_enabled (lowestPending_eq_some _ k hk hlow) hime, takeInterrupt_eq]
  simp only [withCpu_cycle, withCpu_pushed, withCpu_clearRequest, State.withCpu_withCpu]
  rfl

/-- Settles O35: an EI latch or an IME of 0 keeps the boundary from an entry, and the boundary after the latch takes one. -/
theorem haltAndEiDelay : Obligations.HaltAndEiDelay := by
  have disabled {s : State} (hp : pending s ≠ 0) (hime : s.cpu.ime = false) (hei : s.cpu.eiPending = false) :
      boundary s = s.withCpu { s.cpu with halted := false } := by
    rw [boundary, serviceInterrupts_disabled hp hime]
    exact commitEi_of_not_pending hei
  refine ⟨fun s hp => ?_, fun s hf hh hei => ⟨fun hp => ?_, fun hp hime => ⟨?_, disabled hp hime hei⟩⟩,
    fun s hime hei => ?_⟩
  · cases hime : s.cpu.ime
    · rw [serviceInterrupts_disabled hp hime, State.withCpu_cpu]
    · obtain ⟨k, hk⟩ := exists_lowestPending _ hp
      rw [serviceInterrupts_enabled hk hime, takeInterrupt_eq, State.withCpu_cpu, State.withCpu_cpu]
  · have still : boundary s = s := by rw [boundary, serviceInterrupts_none hp, commitEi_of_not_pending hei]
    rw [step_of_halted hf (still.symm ▸ hh), still]
  · have awake : boundary (s.withCpu { s.cpu with halted := false }) = s.withCpu { s.cpu with halted := false } :=
      disabled hp hime hei
    exact step_eq_of_boundary rfl ((disabled hp hime hei).trans awake.symm)
  · have latch : boundary s =
        s.withCpu
          { s.cpu with ime := true, eiPending := false, halted := if pending s = 0 then s.cpu.halted else false } := by
      rw [boundary]
      split
      next hp => rw [serviceInterrupts_none hp, commitEi, if_pos hei]
      next hp =>
        rw [serviceInterrupts_disabled hp hime, commitEi]
        exact if_pos hei
    refine ⟨latch, fun hp => ?_⟩
    obtain ⟨k, hk⟩ := exists_lowestPending _ hp
    rw [latch]
    exact ⟨k, boundary_enters hk rfl rfl⟩

/-! ## The slots of an instruction (70_reset_and_hazards.md R1020) -/

section
variable {s : State} (v : Byte)

theorem readWall_t (s : State) : (readWall s).2.t = s.t := by
  unfold readWall
  split <;> rfl

theorem rtcLatch_t (s : State) : (rtcLatch s).t = s.t := by
  unfold rtcLatch rtcNow
  split
  · split
    · rfl
    · exact readWall_t s
  · rfl

theorem rtcWrite_t : (rtcWrite s v).t = s.t := by
  unfold rtcWrite
  dsimp only
  split
  · exact readWall_t s
  · split
    · rfl
    · exact readWall_t s

theorem extWrite_t (off : Nat) : (extWrite s off v).t = s.t := by
  unfold extWrite
  split
  · split
    case h_2 => exact rtcWrite_t v
    all_goals rfl
  · rfl

theorem mapperWrite_t (n : Nat) : (mapperWrite s n v).t = s.t := by
  unfold mapperWrite
  split
  case h_4 =>
    dsimp only
    split
    · exact rtcLatch_t s
    · rfl
  all_goals rfl

/-- The white lines are sink calls and nothing else (63_ppu.md R740). -/
theorem blankLines_eq (gbc : Bool) (ly n : Nat) (s : State) :
    blankLines gbc ly n s =
      { s with io := { s.io with trace := ((List.range' ly n).map (whiteLine gbc)).reverse ++ s.io.trace } } := by
  induction n generalizing ly s with
  | zero => rfl
  | succ n ih =>
    rw [blankLines, ih, List.range'_succ, List.map_cons, List.reverse_cons, List.append_assoc]
    rfl

theorem lcdcWrite_t : (lcdcWrite s v).t = s.t := by
  unfold lcdcWrite
  dsimp only
  split
  · rw [blankLines_eq]
  · rfl

theorem ioWrite_t_of_dmg (h : s.gbcMode = false) (off : Nat) : (ioWrite s off v).t = s.t := by
  have noGbc : (if s.gbcMode then ioWriteGbc s off v else s) = s := if_neg (by rw [h]; exact Bool.false_ne_true)
  unfold ioWrite
  rw [noGbc]
  split_ifs
  · rfl
  · rfl
  · split
    case h_7 => exact lcdcWrite_t v
    case h_12 =>
      rw [dmaWrite]
      split <;> rfl
    all_goals rfl

/-- In DMG mode no store takes time of its own (R1011): the bulk HDMA is GBC mode's. -/
theorem busWrite_t_of_dmg (h : s.gbcMode = false) (a : Word) : (busWrite s a v).t = s.t := by
  unfold busWrite
  split
  case h_1 => exact mapperWrite_t v _
  case h_3 => exact extWrite_t v _
  case h_7 => exact ioWrite_t_of_dmg v h _
  all_goals rfl

end

/-- `t` comes from `s` by `n` slots, bus writes and register writes: T moves by 4 a slot, and by more only where a store starts a
bulk HDMA. -/
structure Spends (n : Nat) (s t : State) : Prop where
  progress : Progress s t
  atLeast : s.t + 4 * n ≤ t.t
  dmg : s.gbcMode = false → t.t = s.t + 4 * n

namespace Spends

section
variable {m n : Nat} {s t u : State}

theorem refl (s : State) : Spends 0 s s := ⟨Progress.refl s, Nat.le_refl _, fun _ => rfl⟩

theorem trans (h : Spends m s t) (k : Spends n t u) : Spends (m + n) s u where
  progress := h.progress.trans k.progress
  atLeast := by
    have := h.atLeast
    have := k.atLeast
    omega
  dmg hs := by
    have := h.dmg hs
    have := k.dmg (h.progress.gbcMode.trans hs)
    omega

theorem slot (h : Spends n s t) : Spends (n + 1) s (cycle t) :=
  h.trans ⟨cycle_progress t, (cycle_t t).ge, fun _ => cycle_t t⟩

theorem regs (h : Spends n s t) (c : Cpu) : Spends n s (t.withCpu c) :=
  h.trans (n := 0) ⟨withCpu_progress t c, Nat.le_refl _, fun _ => rfl⟩

theorem write (h : Spends n s t) (a : Word) (v : Byte) : Spends n s (busWrite t a v) := by
  refine h.trans (n := 0) ⟨busWrite_progress t a v, ?_, fun hd => busWrite_t_of_dmg v hd a⟩
  obtain ⟨k, hk⟩ := (busWrite_progress t a v).time
  omega

theorem pushed (h : Spends n s t) (sp v : Word) : Spends (n + 2) s (pushed t sp v) :=
  (h.slot.write _ _).slot.write _ _

theorem ite {p : Prop} [Decidable p] (h : p → Spends m s t) (k : ¬p → Spends n s u) :
    Spends (if p then m else n) s (if p then t else u) := by
  split
  · next hp => exact h hp
  · next hp => exact k hp

end

/-! ### The shared operations -/

section
variable (s : State)

theorem loadA (a : Word) : Spends 1 s (loadA a s) := by
  rw [loadA_eq]
  exact (refl s).slot.regs _

theorem memWrite (a : Word) (v : Byte) : Spends 1 s (memWrite a v s) := (refl s).slot.write _ _

theorem push16 (v : Word) : Spends 2 s (push16 v s) := by
  rw [push16_eq_pushed]
  exact ((refl s).pushed _ _).regs _

theorem pop16 : Spends 2 s (pop16 s).2 := by
  rw [pop16_eq]
  exact (refl s).slot.slot.regs _

theorem jumpTo (a : Word) : Spends 1 s (jumpTo a s) := by
  rw [jumpTo_eq]
  exact (refl s).slot.regs _

theorem callTo (a : Word) : Spends 3 s (callTo a s) := by
  rw [callTo_eq]
  exact ((refl s).slot.pushed _ _).regs _

theorem returnTo : Spends 3 s (returnTo s) := by
  rw [returnTo_eq]
  exact (refl s).slot.slot.slot.regs _

theorem applyAlu (op : AluOp) (b : Byte) : Spends 0 s (applyAlu op b s) := (refl s).regs _

theorem applyAluHl (op : AluOp) : Spends 1 s (applyAluHl op s) := by
  rw [applyAluHl_eq]
  exact (refl s).slot.trans (applyAlu _ op _)

theorem modifyHl (g : Byte → Flags → Byte × Flags) : Spends 2 s (modifyHl g s) := by
  rw [modifyHl_eq]
  exact ((refl s).slot.slot.write _ _).regs _

theorem editHl (g : Byte → Byte) : Spends 2 s (editHl g s) := by
  rw [editHl_eq]
  exact (refl s).slot.slot.write _ _

theorem shiftHl (op : ShiftOp) : Spends 2 s (shiftHl op s) := by
  rw [shiftHl_eq]
  exact ((refl s).slot.slot.write _ _).regs _

end

end Spends

/-- Every instruction but the fatal ones and PREFIX CB spends the data and internal slots of its row. -/
theorem exec_spends {i : Instr} (hi : i ≠ .prefixCb) (hstop : i ≠ .stop) (hill : ∀ op, i ≠ .illegal op) (s : State) :
    ∃ t, exec i s = .next t ∧ Spends (dataSlots s.cpu.f i) s t := by
  have none (c : Cpu) : Spends 0 s (s.withCpu c) := (Spends.refl s).regs c
  cases i with
  | prefixCb => exact absurd rfl hi
  | stop => exact absurd rfl hstop
  | illegal op => exact absurd rfl (hill op)
  | nop => exact ⟨_, rfl, Spends.refl s⟩
  | ldRR | ldRN | ldRrN16 | incR | decR | daa | cpl | scf | ccf | jpHl | halt | di | ei => exact ⟨_, rfl, none _⟩
  | addR | addN | adcR | adcN | subR | subN | sbcR | sbcN | andR | andN | xorR | xorN | orR | orN | cpR | cpN =>
    exact ⟨_, rfl, Spends.applyAlu s _ _⟩
  | rlca | rrca | rla | rra | rlcR | rrcR | rlR | rrR | slaR | sraR | swapR | srlR | bitR | resR | setR =>
    exact ⟨_, rfl, none _⟩
  | ldRHl => exact ⟨_, execLdRHl_eq s _, (Spends.refl s).slot.regs _⟩
  | ldABc | ldADe | ldAN16 | ldhAN | ldAC => exact ⟨_, rfl, Spends.loadA s _⟩
  | ldAHli | ldAHld => exact ⟨_, rfl, (Spends.loadA s _).regs _⟩
  | ldHlR | ldHlN | ldBcA | ldDeA | ldN16A | ldhNA | ldCA => exact ⟨_, rfl, Spends.memWrite s _ _⟩
  | ldHliA | ldHldA => exact ⟨_, rfl, (Spends.memWrite s _ _).regs _⟩
  | ldN16Sp => exact ⟨_, execLdN16Sp_eq s _, ((Spends.refl s).slot.write _ _).slot.write _ _⟩
  | ldSpHl | incRr | decRr => exact ⟨_, rfl, (Spends.refl s).slot.regs _⟩
  | ldHlSpE => exact ⟨_, execLdHlSpE_eq s _, (Spends.refl s).slot.regs _⟩
  | addHlRr => exact ⟨_, execAddHlRr_eq s _, (Spends.refl s).slot.regs _⟩
  | addSpE => exact ⟨_, execAddSpE_eq s _, (Spends.refl s).slot.slot.regs _⟩
  | bitHl => exact ⟨_, execBitHl_eq s _, (Spends.refl s).slot.regs _⟩
  | pushRr => exact ⟨_, rfl, (Spends.refl s).slot.trans (Spends.push16 _ _)⟩
  | popRr | popAf => exact ⟨_, rfl, (Spends.pop16 s).regs _⟩
  | addHl | adcHl | subHl | sbcHl | andHl | xorHl | orHl | cpHl => exact ⟨_, rfl, Spends.applyAluHl s _⟩
  | incHl | decHl => exact ⟨_, rfl, Spends.modifyHl s _⟩
  | rlcHl | rrcHl | rlHl | rrHl | slaHl | sraHl | swapHl | srlHl => exact ⟨_, rfl, Spends.shiftHl s _⟩
  | resHl | setHl => exact ⟨_, rfl, Spends.editHl s _⟩
  | jp | jr => exact ⟨_, rfl, Spends.jumpTo s _⟩
  | jpCc | jrCc => exact ⟨_, rfl, Spends.ite (fun _ => Spends.jumpTo s _) fun _ => Spends.refl s⟩
  | call | rst => exact ⟨_, rfl, Spends.callTo s _⟩
  | callCc => exact ⟨_, rfl, Spends.ite (fun _ => Spends.callTo s _) fun _ => Spends.refl s⟩
  | ret => exact ⟨_, rfl, Spends.returnTo s⟩
  | retCc cc =>
    refine ⟨_, rfl, ?_⟩
    rw [internal_eq, cycle_cpu]
    exact Spends.ite (fun _ => (Spends.refl s).slot.trans (Spends.returnTo _)) fun _ => (Spends.refl s).slot
  | reti => exact ⟨_, rfl, (Spends.returnTo s).regs _⟩

/-- Settles O6: the fatal instructions take no slot, and every other one those of its row. -/
theorem everyInstructionCompletes : Obligations.EveryInstructionCompletes := by
  intro i s hi
  by_cases hstop : i = .stop
  · subst hstop
    exact ⟨_, rfl, Nat.le_refl _, fun _ => rfl⟩
  · by_cases hill : ∃ op, i = .illegal op
    · obtain ⟨op, rfl⟩ := hill
      exact ⟨_, rfl, Nat.le_refl _, fun _ => rfl⟩
    · obtain ⟨t, ht, spends⟩ := exec_spends hi hstop (fun op h => hill ⟨op, h⟩) s
      exact ⟨t, ht, spends.atLeast, spends.dmg⟩

/-! ## Fatal faults (R610, R612) -/

theorem fetchedByte_zero (u : State) : fetchedByte u 0 = busRead (cycle u) u.cpu.pc := by
  rw [fetchedByte, BitVec.add_zero, repeatN_one]

/-- The step on an opcode without operand bytes, at whose boundary nothing happens. -/
theorem step_of_plain_opcode {s : State} (h : s.Ready) (hn : operandBytes (busRead (cycle s) s.cpu.pc) = 0) :
    step s = exec (decodeOp (busRead (cycle s) s.cpu.pc) 0 0) (fetched 1 s) := by
  have still := boundary_of_ready h
  rw [← fetchedByte_zero] at hn ⊢
  rw [step_of_running h.fault (by rw [still]; exact h.halted), still, fetchInstr_plain hn]

/-- The record of a fault after one fetch names the address of the opcode. -/
theorem raiseFatal_fetched_one (s : State) (kind : FatalKind) (op : Byte) :
    raiseFatal kind op (fetched 1 s) =
      { (cycle s).withCpu { s.cpu with pc := s.cpu.pc + 1 } with
        fault := some { kind := kind, opcode := op, pc := s.cpu.pc } } := by
  have one : fetched 1 s = (cycle s).withCpu { s.cpu with pc := s.cpu.pc + 1 } := by
    rw [fetched, repeatN_one, State.setPc_eq, cycle_cpu]
    rfl
  rw [raiseFatal, one, State.withCpu_cpu, BitVec.add_sub_cancel]
  rfl

theorem decodeOp_fatal : ∀ op : Byte,
    (op ∈ illegalOpcodes → operandBytes op = 0 ∧ decodeOp op 0 0 = .illegal op) ∧
      (op = 0x10 → operandBytes op = 0 ∧ decodeOp op 0 0 = .stop) := by decide

/-- Settles O25: the opcode's one fetch, then `raiseFatal`; and a machine with FAULT set has no next state. -/
theorem fatalInstructions : Obligations.FatalInstructions := by
  intro s op h hop
  obtain ⟨illegal, stop⟩ := decodeOp_fatal op
  refine ⟨fun hmem => ?_, fun h10 => ?_, fun i hi t ht => ?_⟩
  · obtain ⟨hn, row⟩ := illegal hmem
    rw [step_of_plain_opcode h (hop ▸ hn), hop, row]
    exact congrArg Host.Outcome.next (raiseFatal_fetched_one s _ _)
  · obtain ⟨hn, row⟩ := stop h10
    rw [step_of_plain_opcode h (hop ▸ hn), hop, row]
    exact congrArg Host.Outcome.next (raiseFatal_fetched_one s _ _)
  · obtain rfl | ⟨x, rfl⟩ := hi
    · cases ht
      exact ⟨_, step_of_fault rfl⟩
    · cases ht
      exact ⟨_, step_of_fault rfl⟩

/-- What an instruction does to FAULT: nothing, but for STOP and the undefined opcodes. -/
theorem exec_fault {i : Instr} {s t : State} (h : exec i s = .next t) :
    t.fault = s.fault ∨ (i = .stop ∧ t = raiseFatal .stop 0x10 s) ∨
      ∃ op, i = .illegal op ∧ t = raiseFatal .illegalOpcode op s := by
  by_cases hstop : i = .stop
  · subst hstop
    cases h
    exact .inr (.inl ⟨rfl, rfl⟩)
  by_cases hill : ∃ op, i = .illegal op
  · obtain ⟨op, rfl⟩ := hill
    cases h
    exact .inr (.inr ⟨op, rfl, rfl⟩)
  left
  by_cases hi : i = .prefixCb
  · subst hi
    obtain ⟨-, u, hu, hf⟩ := prefixRunsCbMap s
    cases hu.symm.trans h
    exact hf
  · obtain ⟨u, hu, spends⟩ := exec_spends hi hstop (fun op k => hill ⟨op, k⟩) s
    cases hu.symm.trans h
    exact spends.progress.fault

theorem fetchInstr_fault (u : State) : (fetchInstr u).2.fault = u.fault := by
  have slots (n : Nat) : (fetched n u).fault = u.fault := (Progress.repeatN cycle_progress n u).fault
  have hle := operandBytes_le_two (fetchedByte u 0)
  interval_cases hn : operandBytes (fetchedByte u 0)
  · exact fetchInstr_plain hn ▸ slots 1
  · exact fetchInstr_byte hn ▸ slots 2
  · exact fetchInstr_word hn ▸ slots 3

/-- Settles O26: a step has a next state exactly where FAULT is none, and of what it fetches only STOP and an undefined opcode
set FAULT. -/
theorem stopsOnlyOnFault : Obligations.StopsOnlyOnFault := by
  have next {s : State} (h : s.fault = none) : ∃ t, step s = .next t := by
    cases hh : (boundary s).cpu.halted
    · obtain ⟨t, ht, -⟩ := exec_moves (fetchInstr (boundary s)).1 (fetchInstr (boundary s)).2
      exact ⟨t, (step_of_running h hh).trans ht⟩
    · exact ⟨_, step_of_halted h hh⟩
  refine ⟨fun s f => ⟨fun h => ?_, ?_⟩, fun s r h => ?_, fun s t h hft => ?_⟩
  · cases hs : s.fault with
    | none =>
      obtain ⟨t, ht⟩ := next hs
      cases ht.symm.trans h
    | some r =>
      cases (step_of_fault hs).symm.trans h
      exact ⟨r, rfl, rfl⟩
  · rintro ⟨r, hr, rfl⟩
    exact step_of_fault hr
  · cases hs : s.fault with
    | none =>
      obtain ⟨t, ht⟩ := next hs
      cases ht.symm.trans h
    | some f => cases (step_of_fault hs).symm.trans h
  · cases hs : s.fault with
    | some r => cases (step_of_fault hs).symm.trans h
    | none =>
      have before : (boundary s).fault = none := (boundary_fault s).trans hs
      cases hh : (boundary s).cpu.halted
      · rw [step_of_running hs hh] at h
        obtain same | ⟨-, rfl⟩ | ⟨op, hop, rfl⟩ := exec_fault h
        · exact absurd (same.trans ((fetchInstr_fault _).trans before)) hft
        · exact ⟨_, rfl, .inl ⟨rfl, rfl⟩, (BitVec.sub_add_cancel _ _).symm⟩
        · have wf := fetchInstr_wf (boundary s)
          rw [hop] at wf
          exact ⟨_, rfl, .inr ⟨rfl, List.contains_iff_mem.mp wf⟩, (BitVec.sub_add_cancel _ _).symm⟩
      · rw [step_of_halted hs hh] at h
        cases h
        exact absurd ((cycle_fault _).trans before) hft

/-! ## Whole-machine rules -/

theorem toNat_request_byte : ∀ r : BitVec 5, (0xE0#8 ||| r.zeroExtend 8).toNat = 0xE0 + r.toNat := by decide

theorem toNat_busRead_if (s : State) : (busRead s 0xFF0F).toNat = 0xE0 + s.int.request.toNat := by
  have request : busRead s 0xFF0F = 0xE0 ||| s.int.request.zeroExtend 8 := busRead_io s (off := 0x0F) rfl (by decide)
  exact (congrArg BitVec.toNat request).trans (toNat_request_byte _)

/-- Settles O29: IF reads as 0xE0 with its five bits, and F as a byte is 16 times its four flags. -/
theorem reservedBits : Obligations.ReservedBits := by
  intro s
  have bound := s.int.request.isLt
  rw [toNat_busRead_if, Flags.toNat_toByte]
  omega

theorem reaches_of_step {s t u : State} (h : step s = .next t) (k : Reaches t u) : Reaches s u := by
  induction k with
  | refl => exact Reaches.refl.step h
  | step _ hu ih => exact ih.step hu

theorem Reaches.time_le {s t : State} (h : Reaches s t) : s.t ≤ t.t := by
  induction h with
  | refl => exact Nat.le_refl _
  | step _ hu ih =>
    obtain ⟨⟨k, hk⟩, -⟩ := stepProgress _ _ hu
    omega

/-- The bounded run reaches only machines that steps reach, and ends short of the target on a fault alone. -/
theorem runUntil_reaches (target fuel : Nat) (s : State) :
    Reaches s (runUntil target fuel s) ∧
      ((runUntil target fuel s).fault = none → target ≤ s.t + fuel → target ≤ (runUntil target fuel s).t) := by
  induction fuel generalizing s with
  | zero => exact ⟨.refl, fun _ h => h⟩
  | succ fuel ih =>
    rw [runUntil]
    split
    next hrun =>
      split
      next u hu =>
        obtain ⟨reach, target⟩ := ih u
        obtain ⟨⟨k, hk⟩, -⟩ := stepProgress s u hu
        exact ⟨reaches_of_step hu reach, fun hf hle => target hf (by omega)⟩
      next r hr =>
        obtain ⟨f, hf, -⟩ := (stopsOnlyOnFault.1 s r).1 hr
        rw [hrun.2] at hf
        cases hf
      next r hr => exact absurd hr (stopsOnlyOnFault.2.1 s r)
    next hstop => exact ⟨.refl, fun hf _ => by by_contra h; exact hstop ⟨by omega, hf⟩⟩

/-- Settles O31: every step moves T, so `n` steps are fuel enough. -/
theorem runForReachesTarget : Obligations.RunForReachesTarget := by
  intro n s
  obtain ⟨reach, target⟩ := runUntil_reaches (s.t + n) n s
  have forward := reach.time_le
  refine ⟨?_, fun hf => ?_, reach⟩
  · show (runUntil (s.t + n) n s).t = s.t + ((runUntil (s.t + n) n s).t - s.t)
    omega
  · have := target hf (Nat.le_refl _)
    show n ≤ (runUntil (s.t + n) n s).t - s.t
    omega

end Sys2Proof.Machine
end

section
/-! PROOFS. 61_timer.md R650 to R658: the timer's cycle, its ticks over whole periods, and the timer's and the interrupt
controller's registers. -/

namespace Sys2Proof.Machine

/-! ## Requests -/

/-- A request sets its own bit of IF. -/
theorem getLsbD_or_one_shiftLeft {k : Nat} (hk : k < 5) (r : BitVec 5) (j : Nat) :
    (r ||| 1#5 <<< k).getLsbD j = (r.getLsbD j || decide (j = k)) := by
  have mask : (1#5 <<< k).getLsbD j = (decide (k < 5) && decide (k = j)) := BitVec.getLsbD_twoPow _ _
  rw [BitVec.getLsbD_or, mask, decide_eq_true hk, Bool.true_and, decide_eq_decide.2 eq_comm]

/-! ## One cycle (R651, R652) -/

theorem Timer.started_iff (tm : Timer) : tm.started = true ↔ tm.tac.toNat / 4 = 1 := by
  have h : ∀ c : BitVec 3, c.getLsbD 2 = true ↔ c.toNat / 4 = 1 := by decide
  exact h tm.tac

/-- Cycles per tick of a clock select (R650). -/
def clockPeriod : Nat → Nat
  | 0 => 1024
  | 1 => 16
  | 2 => 64
  | _ => 256

theorem Timer.period_eq (tm : Timer) : tm.period = clockPeriod (tm.tac.toNat % 4) :=
  congrArg clockPeriod (BitVec.extractLsb'_toNat 0 2 tm.tac)

/-- The four periods (R650) divide 65536. -/
theorem Timer.period_cases (tm : Timer) : tm.period = 1024 ∨ tm.period = 16 ∨ tm.period = 64 ∨ tm.period = 256 := by
  unfold Timer.period
  split <;> simp

/-- Whether the cycle from `s` ends on a multiple of the period of a started timer. -/
def Ticks (s : State) : Prop :=
  s.timer.started = true ∧ (s.timer.divider + 1).toNat % s.timer.period = 0

/-- The machine with the divider one further. -/
def countDivider (s : State) : State := { s with timer := { s.timer with divider := s.timer.divider + 1 } }

section
variable {s : State}

theorem timerCycle_of_not_ticks (h : ¬Ticks s) : timerCycle s = countDivider s := if_neg h

theorem timerCycle_of_ticks (h : Ticks s) : timerCycle s = timerTick (countDivider s) := if_pos h

theorem timerTick_count (h : s.timer.tima ≠ 0xFF) :
    timerTick s = { s with timer := { s.timer with tima := s.timer.tima + 1 } } := if_neg h

theorem timerTick_overflow (h : s.timer.tima = 0xFF) :
    timerTick s =
      { s with
        timer := { s.timer with tima := s.timer.tma }
        int := { s.int with request := s.int.request ||| 1#5 <<< 2 } } := if_pos h

theorem timerTick_divider (s : State) : (timerTick s).timer.divider = s.timer.divider := by
  by_cases h : s.timer.tima = 0xFF
  · rw [timerTick_overflow h]
  · rw [timerTick_count h]

/-- A tick moves TIMA and IF alone. -/
theorem timerTick_frame (s : State) :
    timerTick s =
      { s with timer := { s.timer with tima := (timerTick s).timer.tima }, int := (timerTick s).int } := by
  by_cases h : s.timer.tima = 0xFF
  · rw [timerTick_overflow h]
  · rw [timerTick_count h]

/-! ## Whole periods (R658) -/

/-- Short of a period no tick comes: only the divider moves. -/
theorem repeatN_timerCycle_of_lt {j : Nat} (h0 : s.timer.divider.toNat % s.timer.period = 0) (hj : j < s.timer.period) :
    repeatN timerCycle j s =
      { s with timer := { s.timer with divider := s.timer.divider + BitVec.ofNat 16 j } } := by
  induction j with
  | zero =>
    rw [BitVec.add_zero]
    rfl
  | succ j ih =>
    have between : (s.timer.divider + BitVec.ofNat 16 j + 1).toNat % s.timer.period ≠ 0 := by
      rw [← add_ofNat_succ, BitVec.toNat_add, BitVec.toNat_ofNat]
      obtain hp | hp | hp | hp := s.timer.period_cases <;> rw [hp] at h0 hj ⊢ <;> omega
    rw [repeatN_succ_apply, ih (by omega), timerCycle_of_not_ticks fun k => between k.2, countDivider, add_ofNat_succ]

/-- A period of a started timer, from a divider on a multiple of it, is one tick, in its last cycle. -/
theorem repeatN_timerCycle_period (hs : s.timer.started = true) (h0 : s.timer.divider.toNat % s.timer.period = 0) :
    repeatN timerCycle s.timer.period s =
      timerTick { s with timer := { s.timer with divider := s.timer.divider + BitVec.ofNat 16 s.timer.period } } := by
  obtain ⟨j, hj⟩ : ∃ j, s.timer.period = j + 1 := by
    obtain hp | hp | hp | hp := s.timer.period_cases <;> exact ⟨_, hp⟩
  have before := repeatN_timerCycle_of_lt (j := j) h0 (by omega)
  have divider : s.timer.divider + BitVec.ofNat 16 j + 1 = s.timer.divider + BitVec.ofNat 16 s.timer.period := by
    rw [hj, add_ofNat_succ]
  have ticks : Ticks (repeatN timerCycle j s) := by
    rw [before]
    refine ⟨hs, ?_⟩
    show (s.timer.divider + BitVec.ofNat 16 j + 1).toNat % s.timer.period = 0
    rw [divider, BitVec.toNat_add, BitVec.toNat_ofNat]
    obtain hp | hp | hp | hp := s.timer.period_cases <;> rw [hp] at h0 ⊢ <;> omega
  have last : repeatN timerCycle s.timer.period s = timerCycle (repeatN timerCycle j s) := by
    rw [hj, repeatN_succ_apply]
  rw [last, timerCycle_of_ticks ticks, before, countDivider]
  exact congrArg (fun d => timerTick { s with timer := { s.timer with divider := d } }) divider

end

/-- `t` is `s` after `n` ticks of a timer with TMA 0, a period apart, as R658 says. -/
structure TickedBy (n : Nat) (s t : State) : Prop where
  tima : t.timer.tima.toNat = (s.timer.tima.toNat + n) % 256
  divider : t.timer.divider.toNat = (s.timer.divider.toNat + s.timer.period * n) % 65536
  request : t.int.request.getLsbD 2 = (s.int.request.getLsbD 2 || decide (256 ≤ s.timer.tima.toNat + n))
  frame : t = { s with timer := t.timer, int := t.int }
  tac : t.timer.tac = s.timer.tac
  tma : t.timer.tma = 0
  others : ∀ k, k ≠ 2 → t.int.request.getLsbD k = s.int.request.getLsbD k

theorem TickedBy.zero {s : State} (h : s.timer.tma = 0) : TickedBy 0 s s where
  tima := (Nat.mod_eq_of_lt s.timer.tima.isLt).symm
  divider := (Nat.mod_eq_of_lt s.timer.divider.isLt).symm
  request := by
    have bound := s.timer.tima.isLt
    rw [decide_eq_false (by omega), Bool.or_false]
  frame := rfl
  tac := rfl
  tma := h
  others _ _ := rfl

/-- One period more. -/
theorem TickedBy.succ {n : Nat} {s t : State} (h : TickedBy n s t) :
    TickedBy (n + 1) s
      (timerTick { t with timer := { t.timer with divider := t.timer.divider + BitVec.ofNat 16 s.timer.period } }) := by
  have count := h.tima
  have toNat_zero : (0 : Byte).toNat = 0 := rfl
  have toNat_one : (1 : Byte).toNat = 1 := rfl
  have bound := s.timer.tima.isLt
  have divider : (t.timer.divider + BitVec.ofNat 16 s.timer.period).toNat =
      (s.timer.divider.toNat + s.timer.period * (n + 1)) % 65536 := by
    rw [BitVec.toNat_add, h.divider, BitVec.toNat_ofNat, Nat.mul_succ]
    omega
  by_cases hff : t.timer.tima = 0xFF
  · have full : t.timer.tima.toNat = 255 := congrArg BitVec.toNat hff
    rw [timerTick_overflow (by exact hff)]
    refine ⟨?_, divider, ?_, ?_, h.tac, h.tma, fun k hk => ?_⟩
    · show t.timer.tma.toNat = _
      rw [h.tma, toNat_zero]
      omega
    · show (t.int.request ||| 1#5 <<< 2).getLsbD 2 = _
      rw [getLsbD_or_one_shiftLeft (by decide), decide_eq_true rfl, decide_eq_true (by omega), Bool.or_true, Bool.or_true]
    · rw [h.frame]
    · show (t.int.request ||| 1#5 <<< 2).getLsbD k = _
      rw [getLsbD_or_one_shiftLeft (by decide), decide_eq_false hk, Bool.or_false, h.others k hk]
  · have free : t.timer.tima.toNat ≠ 255 := fun e => hff (BitVec.eq_of_toNat_eq e)
    have room := t.timer.tima.isLt
    rw [timerTick_count (by exact hff)]
    refine ⟨?_, divider, ?_, ?_, h.tac, h.tma, h.others⟩
    · show (t.timer.tima + 1).toNat = _
      rw [BitVec.toNat_add, toNat_one]
      omega
    · have same : 256 ≤ s.timer.tima.toNat + n ↔ 256 ≤ s.timer.tima.toNat + (n + 1) := by omega
      show t.int.request.getLsbD 2 = _
      rw [h.request, decide_eq_decide.2 same]
    · rw [h.frame]

/-- `n` periods are `n` ticks. -/
theorem repeatN_timerCycle_periods {s : State} (hs : s.timer.started = true) (htma : s.timer.tma = 0)
    (h0 : s.timer.divider.toNat % s.timer.period = 0) (n : Nat) :
    TickedBy n s (repeatN timerCycle (s.timer.period * n) s) := by
  induction n with
  | zero => exact .zero htma
  | succ n ih =>
    rw [Nat.mul_succ, repeatN_add]
    generalize repeatN timerCycle (s.timer.period * n) s = t at ih ⊢
    have period : t.timer.period = s.timer.period := by rw [Timer.period, Timer.period, ih.tac]
    have started : t.timer.started = true := by rw [Timer.started, ih.tac]; exact hs
    have onPeriod : t.timer.divider.toNat % s.timer.period = 0 := by
      rw [ih.divider]
      obtain hp | hp | hp | hp := s.timer.period_cases <;> rw [hp] at h0 ⊢ <;> omega
    have whole := repeatN_timerCycle_period started (period ▸ onPeriod)
    rw [period] at whole
    rw [whole]
    exact ih.succ

/-- Settles O36: a cycle is the count of the divider and at most one tick, and a period holds one tick, in its last cycle. -/
theorem timerTicks : Obligations.TimerTicks := by
  refine ⟨fun s => ?_, fun s n hs htma h0 => ?_⟩
  · intro d ticks t
    have divider : (s.timer.divider + 1).toNat = d := BitVec.toNat_add _ _
    have iff : Ticks s ↔ ticks := by
      rw [Ticks, Timer.started_iff, divider, Timer.period_eq]
      exact Iff.rfl
    have still (h : ¬ticks) : t = countDivider s := timerCycle_of_not_ticks (mt iff.1 h)
    have moved (h : ticks) : t = timerTick (countDivider s) := timerCycle_of_ticks (iff.2 h)
    refine ⟨?_, fun h => ?_, fun h hff => ?_, fun h hff => ?_, ?_⟩
    · by_cases h : ticks
      · rw [moved h, timerTick_divider]
        exact divider
      · rw [still h]
        exact divider
    · rw [still h]
      exact ⟨rfl, rfl⟩
    · rw [moved h, timerTick_count (by exact hff)]
      exact ⟨rfl, rfl⟩
    · rw [moved h, timerTick_overflow (by exact hff)]
      exact ⟨rfl, rfl⟩
    · by_cases h : ticks
      · rw [moved h, timerTick_frame]
        rfl
      · rw [still h]
        rfl
  · intro t
    have whole := repeatN_timerCycle_periods hs htma h0 n
    exact ⟨whole.tima, whole.divider, whole.request, whole.frame, whole.tac, whole.tma, whole.others⟩

/-! ## The registers (R653 to R656, 10_state.md R42, R43) -/

theorem toNat_tac_byte : ∀ c : BitVec 3, (0xF8#8 ||| c.zeroExtend 8).toNat = 0xF8 + c.toNat := by decide

theorem busWrite_ie (s : State) (v : Byte) : busWrite s 0xFFFF v = { s with int := { s.int with enable := v } } := by
  unfold busWrite
  rw [locate_ie s rfl]

/-- Settles O37: each write and read is a row of the register catalogue. -/
theorem timerAndInterruptRegisters : Obligations.TimerAndInterruptRegisters := by
  intro s v
  have write {a : Word} (off : Nat) (ha : a.toNat = 0xFF00 + off) (k : off < 0x80) := busWrite_io s v ha k
  have div : busRead s 0xFF04 = hiByte s.timer.divider := busRead_io s (off := 0x04) rfl (by decide)
  have tac : busRead s 0xFF07 = 0xF8 ||| s.timer.tac.zeroExtend 8 := busRead_io s (off := 0x07) rfl (by decide)
  refine ⟨write 0x04 rfl (by decide), write 0x05 rfl (by decide), write 0x06 rfl (by decide),
    ⟨_, BitVec.extractLsb'_toNat .., write 0x07 rfl (by decide)⟩, ⟨_, BitVec.extractLsb'_toNat .., write 0x0F rfl (by decide)⟩,
    busWrite_ie s v, ?_, busRead_io s (off := 0x05) rfl (by decide), busRead_io s (off := 0x06) rfl (by decide), ?_,
    toNat_busRead_if s, busRead_ie s⟩
  · rw [div, toNat_hiByte]
  · exact (congrArg BitVec.toNat tac).trans (toNat_tac_byte _)

end Sys2Proof.Machine
end

section
/-! PROOFS. 66_input_host.md R951, R952 and R966: P1, the button events, and when they are applied. -/

namespace Sys2Proof.Machine

/-! ## P1 (R951) -/

theorem toNat_linesOf : ∀ b0 b1 b2 b3 : Bool,
    (linesOf b0 b1 b2 b3).toNat = 15 - (b0.toNat + 2 * b1.toNat + 4 * b2.toNat + 8 * b3.toNat) := by decide

/-- A row as a number: 15 where it is not selected. -/
theorem toNat_row (hidden b0 b1 b2 b3 : Bool) :
    (if hidden then 0x0F#8 else linesOf b0 b1 b2 b3).toNat =
      if hidden then 15 else 15 - (b0.toNat + 2 * b1.toNat + 4 * b2.toNat + 8 * b3.toNat) := by
  cases hidden
  · exact toNat_linesOf b0 b1 b2 b3
  · rfl

/-- The select bits stand above the four lines. -/
theorem toNat_select_or_lines : ∀ (sel : BitVec 2) (lines : BitVec 4),
    (0xC0#8 ||| (sel.zeroExtend 8 <<< 4) ||| lines.zeroExtend 8).toNat = 192 + 16 * sel.toNat + lines.toNat := by decide

theorem lowNibble_and (x y : Byte) : 0x0F &&& x &&& y = (x.truncate 4 &&& y.truncate 4).zeroExtend 8 := by
  ext i hi
  interval_cases i <;> simp

theorem toNat_lowNibble_and {x y : Byte} (hx : x.toNat < 16) :
    (x.truncate 4 &&& y.truncate 4 : BitVec 4).toNat = x.toNat &&& y.toNat := by
  have low : x.toNat &&& y.toNat < 2 ^ 4 := Nat.lt_of_le_of_lt Nat.and_le_left hx
  rw [BitVec.toNat_and, BitVec.toNat_setWidth, BitVec.toNat_setWidth, ← Nat.and_mod_two_pow, Nat.mod_eq_of_lt low]

theorem toNat_p1Read (io : HostIo) :
    (p1Read io).toNat =
      192 + 16 * io.sel.toNat
        + ((if io.sel.getLsbD 0 then 15
            else 15 - (io.pressed.right.toNat + 2 * io.pressed.left.toNat + 4 * io.pressed.up.toNat
              + 8 * io.pressed.down.toNat)) &&&
           (if io.sel.getLsbD 1 then 15
            else 15 - (io.pressed.a.toNat + 2 * io.pressed.b.toNat + 4 * io.pressed.select.toNat
              + 8 * io.pressed.start.toNat))) := by
  have bound (hidden b0 b1 b2 b3 : Bool) : (if hidden then 0x0F#8 else linesOf b0 b1 b2 b3).toNat < 16 := by
    rw [toNat_row]
    split <;> omega
  rw [← toNat_row, ← toNat_row, ← toNat_lowNibble_and (bound _ _ _ _ _), ← toNat_select_or_lines, ← lowNibble_and]
  rfl

/-! ## Button events (R952) -/

theorem Pressed.get_set (p : Pressed) (btn q : Button) (v : Bool) :
    (p.set btn v).get q = if q = btn then v else p.get q := by
  cases btn <;> cases q <;> rfl

/-- A row is selected by a 0 of its select bit. -/
theorem rowSelected_iff (io : HostIo) (btn : Button) :
    rowSelected io btn = true ↔
      if btn = .right ∨ btn = .left ∨ btn = .up ∨ btn = .down then io.sel.getLsbD 0 = false
      else io.sel.getLsbD 1 = false := by
  cases btn <;> simp [rowSelected, Button.isDirection]

/-- A button event touches that button and IF alone. -/
theorem setButton_eq (btn : Button) (v : Bool) (s : State) :
    setButton btn v s =
      { s with
        int :=
          if s.io.pressed.get btn = false ∧ v = true ∧ rowSelected s.io btn = true
          then { s.int with request := s.int.request ||| 16 } else s.int
        io := { s.io with pressed := s.io.pressed.set btn v } } := by
  unfold setButton
  dsimp only
  split <;> rfl

/-! ## When events are applied (R966) -/

/-- A machine with another list of pending events. -/
def State.withInputs (s : State) (q : List InputEvent) : State := { s with io := { s.io with inputs := q } }

theorem setButton_withInputs (btn : Button) (v : Bool) (s : State) (q : List InputEvent) :
    setButton btn v (s.withInputs q) = (setButton btn v s).withInputs q := by
  rw [setButton_eq, setButton_eq]
  rfl

/-- The events to apply are the list it is given, whatever list the machine holds. -/
theorem applyInputs_withInputs (events q : List InputEvent) (s : State) :
    applyInputs events (s.withInputs q) = applyInputs events s := by
  induction events generalizing s with
  | nil => rfl
  | cons e rest ih => simp only [applyInputs, setButton_withInputs, ih]; rfl

/-- The oldest event is applied first, where it is due. -/
theorem refreshInput_cons {s : State} {e : InputEvent} {rest : List InputEvent} (h : s.io.inputs = e :: rest) :
    refreshInput s =
      if e.due ≤ s.t then refreshInput (setButton e.button e.pressed (s.withInputs rest)) else s := by
  have pending : (setButton e.button e.pressed (s.withInputs rest)).io.inputs = rest := by
    rw [setButton_withInputs]
    rfl
  rw [refreshInput, h, applyInputs, refreshInput, pending, setButton_withInputs, applyInputs_withInputs]
  split
  · rfl
  · rw [← h]

/-- No step applies an event. -/
theorem step_keeps_inputs {s t : State} (h : step s = .next t) :
    t.io.pressed = s.io.pressed ∧ t.io.inputs = s.io.inputs := by
  have before := (boundary_moves s).progress
  have slot := cycle_progress (boundary s)
  have rest := (moves_of_step h).progress
  exact ⟨rest.pressed.trans (slot.pressed.trans before.pressed), rest.inputs.trans (slot.inputs.trans before.inputs)⟩

theorem Reaches.keeps_inputs {s t : State} (h : Reaches s t) :
    t.io.pressed = s.io.pressed ∧ t.io.inputs = s.io.inputs := by
  induction h with
  | refl => exact ⟨rfl, rfl⟩
  | step _ hu ih =>
    obtain ⟨pressed, inputs⟩ := step_keeps_inputs hu
    exact ⟨pressed.trans ih.1, inputs.trans ih.2⟩

/-- Settles O57: P1 by its rows, an event by its one equation, and a run by what each step keeps. -/
theorem joypad : Obligations.Joypad := by
  intro s v
  have read : busRead s 0xFF00 = p1Read s.io := busRead_io s (off := 0x00) rfl (by decide)
  refine ⟨?_, ⟨v.extractLsb' 4 2, ?_, busWrite_io s (off := 0x00) v rfl (by decide)⟩, fun btn p => ?_,
    fun e rest h => refreshInput_cons h, fun h => ?_, fun t => step_keeps_inputs, fun n =>
    (runForReachesTarget n s).2.2.keeps_inputs⟩
  · rw [read, toNat_p1Read]
  · rw [BitVec.extractLsb'_toNat, Nat.shiftRight_eq_div_pow]
  · intro t
    have eq : t = _ := setButton_eq btn p s
    refine ⟨?_, fun q hq => ?_, ?_, ?_⟩
    · rw [eq]
      exact (Pressed.get_set _ _ _ _).trans (if_pos rfl)
    · rw [eq]
      exact (Pressed.get_set _ _ _ _).trans (if_neg hq)
    · rw [eq]
    · rw [eq]
      exact if_congr (and_congr_right fun _ => and_congr_right fun _ => rowSelected_iff s.io btn) rfl rfl
  · rw [refreshInput, h, applyInputs, ← h]

end Sys2Proof.Machine
end

section
/-! PROOFS. 63_ppu.md R720 to R742: the PPU's cycle by its events, the position in the frame, a whole frame, the interrupts, STAT,
LCDC and the sprites of a line. -/

namespace Sys2Proof.Machine

/-! ## What the copy engine touches in an HBlank (62_dma_hdma.md R693) -/

/-- Only VRAM and the HDMA engine differ. -/
def CopyOnly (s t : State) : Prop := t = { s with mem := { s.mem with vram := t.mem.vram }, hdma := t.hdma }

theorem CopyOnly.refl (s : State) : CopyOnly s s := rfl

theorem CopyOnly.trans {s t u : State} (h : CopyOnly s t) (k : CopyOnly t u) : CopyOnly s u := by
  rw [CopyOnly] at h k ⊢
  rw [k, h]

theorem hdmaCopyByte_copyOnly (s : State) : CopyOnly s (hdmaCopyByte s) := rfl

theorem repeatN_copyOnly (n : Nat) (s : State) : CopyOnly s (repeatN hdmaCopyByte n s) := by
  induction n generalizing s with
  | zero => exact .refl s
  | succ n ih => exact (hdmaCopyByte_copyOnly s).trans (ih _)

theorem withHdma_copyOnly (s : State) (d : Hdma) : CopyOnly s { s with hdma := d } := rfl

theorem hdmaBlock_copyOnly (s : State) : CopyOnly s (hdmaBlock s) := by
  have copied := repeatN_copyOnly 16 s
  unfold hdmaBlock
  generalize repeatN hdmaCopyByte 16 s = u at copied ⊢
  dsimp only
  split <;> exact copied.trans (withHdma_copyOnly u _)

section
variable {s t : State} (h : CopyOnly s t)
include h

theorem CopyOnly.ppu : t.ppu = s.ppu := by rw [h]
theorem CopyOnly.int : t.int = s.int := by rw [h]
theorem CopyOnly.io : t.io = s.io := by rw [h]
theorem CopyOnly.time : t.t = s.t := by rw [h]
theorem CopyOnly.gbcMode : t.gbcMode = s.gbcMode := by rw [h]

end

/-! ## The events (R734 to R737) -/

theorem getLsbD_requestStatIf (b : Bool) (s : State) (j : Nat) :
    (requestStatIf b s).int.request.getLsbD j = (s.int.request.getLsbD j || (decide (j = 1) && b)) := by
  cases b
  · rw [Bool.and_false, Bool.or_false]
    rfl
  · rw [Bool.and_true]
    exact getLsbD_or_one_shiftLeft (by decide) _ _

/-- A STAT request touches IF alone. -/
theorem requestStatIf_eq (b : Bool) (s : State) : requestStatIf b s = { s with int := (requestStatIf b s).int } := by
  cases b <;> rfl

/-- An HBlank entry without its HDMA block: the line is drawn, and mode 0 requests LCD_STAT. -/
def hblankEvents (s : State) : State := requestStatIf s.ppu.statMode0 (emit (lineOutput s s.ppu.ly) s)

theorem hblankEvents_eq (s : State) :
    hblankEvents s =
      { s with
        int := (hblankEvents s).int
        io := { s.io with trace := lineOutput s s.ppu.ly :: s.io.trace } } :=
  requestStatIf_eq _ _

theorem hblankEntry_eq (s : State) :
    hblankEntry s =
      if s.hdma.active = true ∧ s.hdma.hblank = true then hdmaBlock (hblankEvents s) else hblankEvents s := by
  have hdma : (hblankEvents s).hdma = s.hdma := by rw [hblankEvents_eq]
  rw [← hdma]
  rfl

theorem hblankEntry_copyOnly (s : State) : CopyOnly (hblankEvents s) (hblankEntry s) := by
  rw [hblankEntry_eq]
  split
  · exact hdmaBlock_copyOnly _
  · exact .refl _

theorem hblankEntry_ppu (s : State) : (hblankEntry s).ppu = s.ppu := by
  rw [(hblankEntry_copyOnly s).ppu, hblankEvents_eq]

theorem hblankEntry_io (s : State) :
    (hblankEntry s).io = { s.io with trace := lineOutput s s.ppu.ly :: s.io.trace } := by
  rw [(hblankEntry_copyOnly s).io, hblankEvents_eq]

theorem getLsbD_hblankEntry (s : State) (j : Nat) :
    (hblankEntry s).int.request.getLsbD j = (s.int.request.getLsbD j || (decide (j = 1) && s.ppu.statMode0)) := by
  rw [(hblankEntry_copyOnly s).int]
  exact getLsbD_requestStatIf _ _ _

/-- The line after `ly` (R730, R731). -/
def nextLine (ly : Nat) : Nat := if ly = 153 then 0 else ly + 1

/-- The machine at the first cycle of line `n`. -/
def atLineStart (n : Nat) (s : State) : State := { s with ppu := { s.ppu with linePosition := 0, ly := n } }

/-- A line end goes to the next line, enters VBlank where that is 144, and then makes its two STAT requests. -/
theorem lineEnd_eq (s : State) :
    lineEnd s =
      requestStatIf (decide (nextLine s.ppu.ly < 144) && s.ppu.statMode2)
        (requestStatIf (decide (nextLine s.ppu.ly = s.ppu.lyc.toNat) && s.ppu.statLyc)
          (if nextLine s.ppu.ly = 144 then vblankEntry (atLineStart 144 s) else atLineStart (nextLine s.ppu.ly) s)) := by
  have lyc (n : Nat) : (n == s.ppu.lyc.toNat) = decide (n = s.ppu.lyc.toNat) := Bool.beq_eq_decide_eq _ _
  have ppuStat (b : Bool) (u : State) : (requestStatIf b u).ppu = u.ppu := by rw [requestStatIf_eq]
  have ppuVblank (u : State) : (vblankEntry u).ppu = u.ppu := ppuStat _ _
  unfold lineEnd
  by_cases h144 : s.ppu.ly + 1 = screenHeight
  · have next : nextLine s.ppu.ly = 144 := (if_neg fun k => absurd (k ▸ h144) (by decide)).trans h144
    have no154 : (144 : Nat) ≠ frameLines := by decide
    rw [next]
    simp only [h144, if_true, ppuVblank, ppuStat, screenHeight, no154, if_false, Ppu.coincidence, lyc]
    rfl
  · by_cases h154 : s.ppu.ly + 1 = frameLines
    · have next : nextLine s.ppu.ly = 0 := if_pos (Nat.succ_injective h154)
      have no144 : ¬frameLines = screenHeight := by decide
      rw [next]
      simp only [h154, no144, if_true, if_false, ppuStat, Ppu.coincidence, lyc]
      rfl
    · have next : nextLine s.ppu.ly = s.ppu.ly + 1 := if_neg fun k => h154 (congrArg (· + 1) k)
      have no144 : ¬s.ppu.ly + 1 = 144 := h144
      rw [next]
      simp only [h144, h154, no144, if_false, ppuStat, Ppu.coincidence, lyc]
      rfl

theorem lineEnd_ppu (s : State) : (lineEnd s).ppu = { s.ppu with linePosition := 0, ly := nextLine s.ppu.ly } := by
  have stat (b : Bool) (u : State) : (requestStatIf b u).ppu = u.ppu := by rw [requestStatIf_eq]
  rw [lineEnd_eq, stat, stat]
  split
  next h144 =>
    rw [h144]
    exact stat _ _
  next => rfl

theorem lineEnd_trace (s : State) :
    (lineEnd s).io.trace = (if nextLine s.ppu.ly = 144 then [.flip] else []) ++ s.io.trace := by
  have stat (b : Bool) (u : State) : (requestStatIf b u).io = u.io := by rw [requestStatIf_eq]
  rw [lineEnd_eq, stat, stat]
  split
  next =>
    show .flip :: (requestStatIf _ _).io.trace = _
    rw [stat]
    rfl
  next => rfl

theorem getLsbD_lineEnd (s : State) (j : Nat) :
    (lineEnd s).int.request.getLsbD j =
      (s.int.request.getLsbD j || (decide (j = 0) && decide (nextLine s.ppu.ly = 144)) ||
        (decide (j = 1) &&
          ((decide (nextLine s.ppu.ly = 144) && s.ppu.statMode1)
            || (decide (nextLine s.ppu.ly = s.ppu.lyc.toNat) && s.ppu.statLyc)
            || (decide (nextLine s.ppu.ly < 144) && s.ppu.statMode2)))) := by
  have vblank (u : State) : (vblankEntry u).int.request.getLsbD j =
      ((u.int.request.getLsbD j || decide (j = 0)) || (decide (j = 1) && u.ppu.statMode1)) :=
    (getLsbD_requestStatIf _ _ _).trans (congrArg (· || _) (getLsbD_or_one_shiftLeft (by decide) _ _))
  rw [lineEnd_eq, getLsbD_requestStatIf, getLsbD_requestStatIf]
  split
  next h144 =>
    rw [vblank, decide_eq_true h144]
    simp only [atLineStart, Bool.and_true, Bool.true_and, Bool.and_or_distrib_left, Bool.or_assoc]
  next h144 =>
    rw [decide_eq_false h144]
    simp only [atLineStart, Bool.and_false, Bool.or_false, Bool.false_and, Bool.false_or, Bool.and_or_distrib_left,
      Bool.or_assoc]

theorem lineEnd_hdma_mem (s : State) : (lineEnd s).hdma = s.hdma ∧ (lineEnd s).mem = s.mem := by
  have stat (b : Bool) (u : State) : (requestStatIf b u).hdma = u.hdma ∧ (requestStatIf b u).mem = u.mem := by
    rw [requestStatIf_eq]
    exact ⟨rfl, rfl⟩
  rw [lineEnd_eq, (stat _ _).1, (stat _ _).1, (stat _ _).2, (stat _ _).2]
  split
  · exact stat _ _
  · exact ⟨rfl, rfl⟩

/-- Settles O43: the requests of a line end and of an HBlank entry, bit by bit. -/
theorem ppuInterrupts : Obligations.PpuInterrupts := by
  intro s _ ly t
  have bits := getLsbD_lineEnd s
  have ppu := lineEnd_ppu s
  refine ⟨?_, ?_, ?_, ?_, lineEnd_trace s, ?_, fun k hk => ?_, fun k hk => ?_⟩
  · exact congrArg Ppu.ly ppu
  · exact congrArg Ppu.linePosition ppu
  · refine (bits 0).trans ?_
    simp only [decide_true, Bool.true_and, Nat.zero_ne_one, decide_false, Bool.false_and, Bool.or_false]
    rfl
  · refine (bits 1).trans ?_
    simp only [decide_true, Bool.true_and, Nat.one_ne_zero, decide_false, Bool.false_and, Bool.or_false, Bool.or_assoc]
    rfl
  · exact (getLsbD_hblankEntry s 1).trans (by rw [decide_eq_true rfl, Bool.true_and])
  · refine (bits k).trans ?_
    rw [decide_eq_false (by omega : k ≠ 0), decide_eq_false (by omega : k ≠ 1)]
    simp only [Bool.false_and, Bool.or_false]
  · rw [getLsbD_hblankEntry, decide_eq_false hk, Bool.false_and, Bool.or_false]

/-! ## The cycle by its events (R730) -/

/-- The machine `j` cycles further on in its line. -/
def alongLine (j : Nat) (s : State) : State := { s with ppu := { s.ppu with linePosition := s.ppu.linePosition + j } }

section
variable {s : State}

theorem ppuCycle_off (h : s.ppu.lcdEnable = false) : ppuCycle s = s := by
  rw [ppuCycle, h]
  rfl

/-- The cycle that brings line_position to 252 on a visible line is the HBlank entry. -/
theorem ppuCycle_hblank (h : s.ppu.lcdEnable = true) (hp : s.ppu.linePosition = 251) (hl : s.ppu.ly < 144) :
    ppuCycle s = hblankEntry (alongLine 1 s) := by
  have pos : (hblankEntry (alongLine 1 s)).ppu.linePosition ≠ lineCycles := by
    rw [hblankEntry_ppu]
    show s.ppu.linePosition + 1 ≠ lineCycles
    rw [hp]
    decide
  have entry : s.ppu.linePosition + 1 = hblankPosition ∧ s.ppu.ly < screenHeight := ⟨by rw [hp]; rfl, hl⟩
  rw [ppuCycle, if_pos h]
  dsimp only
  rw [if_pos entry]
  exact if_neg pos

/-- The cycle that fills the line is the line end. -/
theorem ppuCycle_lineEnd (h : s.ppu.lcdEnable = true) (hp : s.ppu.linePosition = 455) : ppuCycle s = lineEnd s := by
  have noEntry : ¬(s.ppu.linePosition + 1 = hblankPosition ∧ s.ppu.ly < screenHeight) := by
    rw [hp]
    exact fun k => absurd k.1 (by decide)
  have fills : s.ppu.linePosition + 1 = lineCycles := by rw [hp]; rfl
  rw [ppuCycle, if_pos h]
  dsimp only
  rw [if_neg noEntry]
  exact if_pos fills

/-- Every other cycle only counts. -/
theorem ppuCycle_count (h : s.ppu.lcdEnable = true) (hp : s.ppu.linePosition ≠ 455)
    (he : ¬(s.ppu.linePosition = 251 ∧ s.ppu.ly < 144)) : ppuCycle s = alongLine 1 s := by
  have noEntry : ¬(s.ppu.linePosition + 1 = hblankPosition ∧ s.ppu.ly < screenHeight) := fun k =>
    he ⟨Nat.succ_injective k.1, k.2⟩
  have notFull : s.ppu.linePosition + 1 ≠ lineCycles := fun k => hp (Nat.succ_injective k)
  rw [ppuCycle, if_pos h]
  dsimp only
  rw [if_neg noEntry]
  exact if_neg notFull

/-- Of the PPU's registers a cycle moves LY and line_position alone. -/
theorem ppuCycle_lcdEnable (s : State) : (ppuCycle s).ppu.lcdEnable = s.ppu.lcdEnable := by
  rw [(ppuCycle_advance s).ppu]
  rfl

/-! ## The position in the frame (R720) -/

/-- The position in the frame of 154 lines of 456 cycles. -/
def Ppu.position (p : Ppu) : Nat := p.ly * 456 + p.linePosition

theorem ppuCycle_position (h : s.ppu.lcdEnable = true) (hi : s.ppu.Inv) :
    (ppuCycle s).ppu.position = (s.ppu.position + 1) % 70224 ∧ (ppuCycle s).ppu.Inv := by
  have hl : s.ppu.ly < 154 := hi.ly
  have hp : s.ppu.linePosition < 456 := hi.linePosition
  by_cases h455 : s.ppu.linePosition = 455
  · rw [ppuCycle_lineEnd h h455, lineEnd_ppu]
    have next : nextLine s.ppu.ly < 154 ∧ nextLine s.ppu.ly * 456 = (s.ppu.ly * 456 + 456) % 70224 := by
      unfold nextLine
      split <;> omega
    refine ⟨?_, ⟨next.1, (by decide : 0 < lineCycles)⟩⟩
    show nextLine s.ppu.ly * 456 + 0 = (s.ppu.ly * 456 + s.ppu.linePosition + 1) % 70224
    rw [next.2, h455]
    rfl
  · have ppu : (ppuCycle s).ppu = (alongLine 1 s).ppu := by
      by_cases he : s.ppu.linePosition = 251 ∧ s.ppu.ly < 144
      · rw [ppuCycle_hblank h he.1 he.2, hblankEntry_ppu]
      · rw [ppuCycle_count h h455 he]
    rw [ppu]
    refine ⟨?_, ⟨hl, (by omega : s.ppu.linePosition + 1 < 456)⟩⟩
    show s.ppu.ly * 456 + (s.ppu.linePosition + 1) = (s.ppu.ly * 456 + s.ppu.linePosition + 1) % 70224
    omega

end

/-- Settles O41: each cycle moves the position by one, modulo the frame. -/
theorem ppuPosition : Obligations.PpuPosition := by
  intro s k hi t
  refine ⟨fun h => ?_, fun h => ?_⟩
  · suffices moved : t.ppu.lcdEnable = true ∧ t.ppu.position = (s.ppu.position + k) % 70224 ∧ t.ppu.Inv from moved.2
    induction k with
    | zero =>
      have hl : s.ppu.ly < 154 := hi.ly
      have hp : s.ppu.linePosition < 456 := hi.linePosition
      refine ⟨h, ?_, hi⟩
      show s.ppu.ly * 456 + s.ppu.linePosition = (s.ppu.ly * 456 + s.ppu.linePosition + 0) % 70224
      omega
    | succ k ih =>
      obtain ⟨on, position, inv⟩ := ih
      obtain ⟨position', inv'⟩ := ppuCycle_position on inv
      simp only [t, repeatN_succ_apply]
      refine ⟨(ppuCycle_lcdEnable _).trans on, ?_, inv'⟩
      rw [position', position]
      omega
  · induction k with
    | zero => rfl
    | succ k ih =>
      simp only [t, repeatN_succ_apply]
      rw [ih, ppuCycle_off h]

/-! ## A whole frame (R734, R735; 66_input_host.md R955) -/

section
variable {s : State}

/-- Between two events the cycles only count. -/
theorem repeatN_ppuCycle_count {j : Nat} (h : s.ppu.lcdEnable = true) (hj : s.ppu.linePosition + j ≤ 455)
    (he : s.ppu.linePosition + j ≤ 251 ∨ 252 ≤ s.ppu.linePosition ∨ 144 ≤ s.ppu.ly) :
    repeatN ppuCycle j s = alongLine j s := by
  induction j with
  | zero => rfl
  | succ j ih =>
    have step : ppuCycle (alongLine j s) = alongLine 1 (alongLine j s) := by
      refine ppuCycle_count h ?_ fun k => ?_
      · show s.ppu.linePosition + j ≠ 455
        omega
      · obtain ⟨k1, k2⟩ : s.ppu.linePosition + j = 251 ∧ s.ppu.ly < 144 := k
        omega
    rw [repeatN_succ_apply, ih (by omega) (by omega), step]
    rfl

/-- What a whole line of the frame leaves: the next line's start, its sink calls, and VBLANK requested at the last visible line's
end. -/
structure LineDone (s t : State) : Prop where
  ppu : t.ppu = { s.ppu with ly := nextLine s.ppu.ly, linePosition := 0 }
  visible : s.ppu.ly < 144 → ∃ o : Output, o.line = some s.ppu.ly ∧
    t.io.trace = (if s.ppu.ly = 143 then [.flip] else []) ++ o :: s.io.trace
  hidden : 144 ≤ s.ppu.ly → t.io.trace = s.io.trace
  vblank : t.int.request.getLsbD 0 = (s.int.request.getLsbD 0 || decide (s.ppu.ly = 143))

theorem lineOutput_line (s : State) (ly : Nat) : (lineOutput s ly).line = some ly := by
  unfold lineOutput
  dsimp only
  split <;> rfl

theorem nextLine_eq_144_iff {ly : Nat} : nextLine ly = 144 ↔ ly = 143 := by
  unfold nextLine
  split <;> omega

theorem repeatN_ppuCycle_visible (h : s.ppu.lcdEnable = true) (hp : s.ppu.linePosition = 0) (hl : s.ppu.ly < 144) :
    repeatN ppuCycle 456 s = lineEnd (alongLine 203 (hblankEntry (alongLine 252 s))) := by
  have toEntry : repeatN ppuCycle 251 s = alongLine 251 s := repeatN_ppuCycle_count h (by omega) (by omega)
  have entry : ppuCycle (alongLine 251 s) = hblankEntry (alongLine 252 s) :=
    ppuCycle_hblank (s := alongLine 251 s) h (by rw [alongLine, hp]) hl
  have ppu := hblankEntry_ppu (alongLine 252 s)
  generalize hblankEntry (alongLine 252 s) = u at entry ppu ⊢
  have pos : u.ppu.linePosition = 252 := by rw [ppu, alongLine, hp]
  have on : u.ppu.lcdEnable = true := by rw [ppu]; exact h
  have toEnd : repeatN ppuCycle 203 u = alongLine 203 u := repeatN_ppuCycle_count on (by omega) (by omega)
  have toHblank : repeatN ppuCycle 252 s = u := (repeatN_succ_apply ppuCycle 251 s).trans (toEntry.symm ▸ entry)
  have lineParts : 456 = 252 + 203 + 1 := rfl
  rw [lineParts, repeatN_succ_apply, repeatN_add, toHblank, toEnd]
  exact ppuCycle_lineEnd (s := alongLine 203 u) on (by rw [alongLine, pos])

theorem repeatN_ppuCycle_hidden (h : s.ppu.lcdEnable = true) (hp : s.ppu.linePosition = 0) (hl : 144 ≤ s.ppu.ly) :
    repeatN ppuCycle 456 s = lineEnd (alongLine 455 s) := by
  have toEnd : repeatN ppuCycle 455 s = alongLine 455 s := repeatN_ppuCycle_count h (by omega) (by omega)
  have lineParts : 456 = 455 + 1 := rfl
  rw [lineParts, repeatN_succ_apply, toEnd]
  exact ppuCycle_lineEnd (s := alongLine 455 s) h (by rw [alongLine, hp])

theorem lineDone_repeatN (h : s.ppu.lcdEnable = true) (hp : s.ppu.linePosition = 0) (hl : s.ppu.ly < 154) :
    LineDone s (repeatN ppuCycle 456 s) := by
  by_cases hv : s.ppu.ly < 144
  · rw [repeatN_ppuCycle_visible h hp hv]
    have ppu := hblankEntry_ppu (alongLine 252 s)
    have io := hblankEntry_io (alongLine 252 s)
    have bit := getLsbD_hblankEntry (alongLine 252 s) 0
    generalize hblankEntry (alongLine 252 s) = u at ppu io bit ⊢
    have ly : (alongLine 203 u).ppu.ly = s.ppu.ly := show u.ppu.ly = _ by rw [ppu]; rfl
    refine ⟨?_, fun _ => ⟨_, lineOutput_line (alongLine 252 s) s.ppu.ly, ?_⟩, fun k => absurd hv (by omega), ?_⟩
    · rw [lineEnd_ppu, ly]
      exact congrArg (fun p : Ppu => { p with ly := nextLine s.ppu.ly, linePosition := 0 }) ppu
    · rw [lineEnd_trace, ly]
      simp only [nextLine_eq_144_iff]
      exact congrArg (_ ++ HostIo.trace ·) io
    · rw [getLsbD_lineEnd, ly]
      simp only [nextLine_eq_144_iff, decide_true, Bool.true_and, Nat.zero_ne_one, decide_false, Bool.false_and,
        Bool.or_false] at bit ⊢
      exact congrArg (· || _) bit
  · rw [repeatN_ppuCycle_hidden h hp (by omega)]
    have notLast : ¬(alongLine 455 s).ppu.ly = 143 := fun k => hv (by rw [show s.ppu.ly = 143 from k]; decide)
    refine ⟨lineEnd_ppu _, fun k => absurd k hv, fun _ => ?_, ?_⟩
    · rw [lineEnd_trace, if_neg (notLast ∘ nextLine_eq_144_iff.1)]
      rfl
    · rw [getLsbD_lineEnd]
      simp only [nextLine_eq_144_iff, decide_true, Bool.true_and, Nat.zero_ne_one, decide_false, Bool.false_and,
        Bool.or_false]
      rfl

theorem Ppu.frameStart_of {p : Ppu} (hl : p.ly = 0) (hp : p.linePosition = 0) : { p with ly := 0, linePosition := 0 } = p := by
  cases p
  cases hl
  cases hp
  rfl

/-- What the first `m` lines of a frame leave: their sink calls in order, the flip after line 143. -/
structure LinesDone (m : Nat) (s t : State) : Prop where
  ppu : t.ppu = { s.ppu with ly := m % 154, linePosition := 0 }
  vblank : 144 ≤ m → t.int.request.getLsbD 0 = true
  trace : ∃ new, t.io.trace = new ++ s.io.trace ∧ (144 ≤ m → new.head? = some .flip) ∧
    new.reverse.map Output.line = (List.range (min m 144)).map some ++ if 144 ≤ m then [none] else []

theorem LinesDone.succ {m : Nat} {t : State} (hm : m < 154) (hs : s.ppu.lcdEnable = true) (h : LinesDone m s t) :
    LinesDone (m + 1) s (repeatN ppuCycle 456 t) := by
  have ly : t.ppu.ly = m := by
    rw [h.ppu]
    exact Nat.mod_eq_of_lt hm
  have line := lineDone_repeatN (s := t) (by rw [h.ppu]; exact hs) (by rw [h.ppu]) (ly.symm ▸ hm)
  obtain ⟨new, trace, head, lines⟩ := h.trace
  have next : nextLine m = (m + 1) % 154 := by
    unfold nextLine
    split <;> omega
  refine ⟨?_, fun h144 => ?_, ?_⟩
  · rw [line.ppu, ly, next, h.ppu]
  · rw [line.vblank, ly]
    by_cases h143 : m = 143
    · rw [decide_eq_true h143, Bool.or_true]
    · rw [h.vblank (by omega), Bool.true_or]
  · by_cases hv : m < 144
    · obtain ⟨o, ho, drawn⟩ := line.visible (ly.symm ▸ hv)
      rw [if_neg (by omega), Nat.min_eq_left (by omega), List.append_nil] at lines
      rw [ly, trace] at drawn
      rw [ly] at ho
      refine ⟨(if m = 143 then [.flip] else []) ++ o :: new, by rw [drawn, List.append_assoc]; rfl, fun h144 => ?_, ?_⟩
      · rw [if_pos (by omega)]
        rfl
      · rw [Nat.min_eq_left (by omega), List.range_succ, List.map_append, ← lines]
        by_cases h143 : m = 143
        · rw [if_pos h143, if_pos (by omega)]
          simp [ho, show Output.line .flip = none from rfl]
        · rw [if_neg h143, if_neg (by omega)]
          simp [ho]
    · refine ⟨new, (line.hidden (by omega)).trans trace, fun _ => head (by omega), ?_⟩
      rw [lines, if_pos (by omega), if_pos (by omega), Nat.min_eq_right (by omega), Nat.min_eq_right (by omega)]

theorem linesDone_repeatN (hs : s.ppu.lcdEnable = true) (hl : s.ppu.ly = 0) (hp : s.ppu.linePosition = 0) {m : Nat}
    (hm : m ≤ 154) : LinesDone m s (repeatN ppuCycle (456 * m) s) := by
  induction m with
  | zero =>
    refine ⟨?_, fun k => absurd k (by decide), [], rfl, fun k => absurd k (by decide), rfl⟩
    exact (Ppu.frameStart_of hl hp).symm
  | succ m ih =>
    rw [Nat.mul_succ, repeatN_add]
    exact (ih (by omega)).succ (by omega) hs

end

/-- Settles O42: a frame is 154 lines, of which the first 144 draw and the 144th flips. -/
theorem frameDrawsEachLineOnce : Obligations.FrameDrawsEachLineOnce := by
  intro s hs hl hp t
  have frame : 70224 = 456 * 154 := rfl
  have done : LinesDone 154 s t := by
    simp only [t]
    rw [frame]
    exact linesDone_repeatN hs hl hp (Nat.le_refl _)
  obtain ⟨new, trace, head, lines⟩ := done.trace
  refine ⟨?_, done.vblank (by decide), new, trace, ?_, head (by decide), lines⟩
  · rw [done.ppu]
    exact Ppu.frameStart_of hl hp
  · have length := congrArg List.length lines
    simpa using length

/-! ## STAT and LCDC (R721, R738, R740) -/

theorem Ppu.lcdEnable_iff (p : Ppu) : p.lcdEnable = true ↔ 128 ≤ p.lcdc.toNat := by
  rw [Ppu.lcdEnable, getLsbD_seven_eq_div, decide_eq_true_iff]
  omega

theorem Ppu.lcdEnable_eq_false_iff (p : Ppu) : p.lcdEnable = false ↔ p.lcdc.toNat < 128 := by
  rw [← Bool.not_eq_true, lcdEnable_iff, Nat.not_le]

theorem Ppu.mode_lt (p : Ppu) : p.mode < 4 := by
  unfold Ppu.mode
  repeat' split
  all_goals decide

/-- The fields of the STAT byte do not overlap. -/
theorem toNat_statByte : ∀ (lyc m2 m1 m0 coincides : Bool) (mode : Fin 4),
    (0x80#8 ||| bitAt lyc 6 ||| bitAt m2 5 ||| bitAt m1 4 ||| bitAt m0 3 ||| bitAt coincides 2
        ||| BitVec.ofNat 8 mode.val).toNat =
      128 + 64 * lyc.toNat + 32 * m2.toNat + 16 * m1.toNat + 8 * m0.toNat + 4 * coincides.toNat + mode.val := by
  decide

theorem enables_of_byte : ∀ v : Byte,
    8 * (v.getLsbD 3).toNat + 16 * (v.getLsbD 4).toNat + 32 * (v.getLsbD 5).toNat + 64 * (v.getLsbD 6).toNat =
      v.toNat % 128 / 8 * 8 := by
  decide

/-- Settles O44: the byte by its fields, and the write by the model's `statWrite`. -/
theorem statRegister : Obligations.StatRegister := by
  intro s v
  have read : busRead s 0xFF41 = s.ppu.stat := busRead_io s (off := 0x41) rfl (by decide)
  refine ⟨?_, statWrite s.ppu v, busWrite_io s (off := 0x41) v rfl (by decide), rfl, enables_of_byte v⟩
  have fields := toNat_statByte s.ppu.statLyc s.ppu.statMode2 s.ppu.statMode1 s.ppu.statMode0 s.ppu.coincidence
    ⟨s.ppu.mode, s.ppu.mode_lt⟩
  have coincidence : s.ppu.coincidence = decide (s.ppu.ly = s.ppu.lyc.toNat) := Bool.beq_eq_decide_eq _ _
  rw [coincidence] at fields
  rw [read, Ppu.stat, coincidence]
  refine fields.trans ?_
  simp only [Ppu.mode, Ppu.lcdEnable_eq_false_iff]
  rfl

/-- Settles O45: the blanked screen's lines are `blankLines`'s trace. -/
theorem lcdOff : Obligations.LcdOff := by
  intro s v t
  have write : t = lcdcWrite s v := busWrite_io s (off := 0x40) v rfl (by decide)
  have on (b : Byte) : b.getLsbD 7 = true ↔ 128 ≤ b.toNat := Ppu.lcdEnable_iff { s.ppu with lcdc := b }
  have off (b : Byte) : b.getLsbD 7 = false ↔ b.toNat < 128 := Ppu.lcdEnable_eq_false_iff { s.ppu with lcdc := b }
  refine ⟨fun h k => ?_, fun h => ?_, fun ly => ⟨rfl, rfl⟩⟩
  · have turnedOff : s.ppu.lcdEnable = true ∧ v.getLsbD 7 = false := ⟨(on _).2 h, (off v).2 k⟩
    have blanked : t =
        { s with
          ppu := { s.ppu with lcdc := v, ly := 0, linePosition := 0 }
          io := { s.io with trace := ((List.range screenHeight).map (whiteLine s.gbcMode)).reverse ++ s.io.trace } } := by
      rw [write, List.range_eq_range']
      refine (if_pos turnedOff).trans ?_
      rw [blankLines_eq]
    rw [blanked]
    exact ⟨rfl, rfl, rfl⟩
  · have stays : ¬(s.ppu.lcdEnable = true ∧ v.getLsbD 7 = false) := fun ⟨k1, k2⟩ =>
      h.elim (Nat.not_lt.2 ((on _).1 k1)) (Nat.not_le.2 ((off v).1 k2))
    rw [write, lcdcWrite]
    exact if_neg stays

/-! ## The sprites of a line (R741, R742) -/

theorem Sprite.coversLine_iff (sp : Sprite) (h ly : Nat) :
    sp.coversLine h ly = true ↔ sp.y ≤ ly ∧ (ly : Int) < sp.y + h := by
  rw [Sprite.coversLine, Bool.and_eq_true, decide_eq_true_iff, decide_eq_true_iff]

theorem insertByX_perm (sp : Sprite) (sprites : List Sprite) : (insertByX sp sprites).Perm (sp :: sprites) := by
  induction sprites with
  | nil => exact .refl _
  | cons q rest ih =>
    unfold insertByX
    split
    · exact .refl _
    · exact (ih.cons q).trans (.swap sp q rest)

theorem sortByX_perm (sprites : List Sprite) : (sortByX sprites).Perm sprites := by
  induction sprites with
  | nil => exact .refl _
  | cons sp rest ih => exact (insertByX_perm sp _).trans (ih.cons sp)

theorem insertByX_pairwise (sp : Sprite) {sprites : List Sprite} (h : sprites.Pairwise fun p q => p.x ≤ q.x) :
    (insertByX sp sprites).Pairwise fun p q => p.x ≤ q.x := by
  induction sprites with
  | nil => exact List.pairwise_singleton _ _
  | cons q rest ih =>
    obtain ⟨hq, hrest⟩ := List.pairwise_cons.1 h
    unfold insertByX
    split
    next first =>
      refine List.pairwise_cons.2 ⟨fun r hr => ?_, h⟩
      rcases List.mem_cons.1 hr with rfl | hr
      · exact first
      · exact first.trans (hq r hr)
    next later =>
      refine List.pairwise_cons.2 ⟨fun r hr => ?_, ih hrest⟩
      rcases List.mem_cons.1 ((insertByX_perm sp rest).mem_iff.1 hr) with rfl | hr
      · omega
      · exact hq r hr

theorem sortByX_pairwise (sprites : List Sprite) : (sortByX sprites).Pairwise fun p q => p.x ≤ q.x := by
  induction sprites with
  | nil => exact .nil
  | cons sp rest ih => exact insertByX_pairwise sp ih

/-- The insertion passes smaller x alone, so the sprites of one x keep their order. -/
theorem filter_insertByX (sp : Sprite) (sprites : List Sprite) (x : Int) :
    (insertByX sp sprites).filter (fun p => p.x = x) = (sp :: sprites).filter fun p => p.x = x := by
  induction sprites with
  | nil => rfl
  | cons q rest ih =>
    unfold insertByX
    split
    · rfl
    next later =>
      rw [List.filter_cons, ih]
      simp only [List.filter_cons, decide_eq_true_eq]
      by_cases hq : q.x = x
      · simp only [hq, if_true, if_neg (show ¬sp.x = x by omega)]
      · simp only [hq, if_false]

theorem filter_sortByX (sprites : List Sprite) (x : Int) :
    (sortByX sprites).filter (fun p => p.x = x) = sprites.filter fun p => p.x = x := by
  induction sprites with
  | nil => rfl
  | cons sp rest ih => rw [sortByX, filter_insertByX, List.filter_cons, List.filter_cons, ih]

/-- Settles O46: the collection is a filter cut at ten, the priority a stable insertion sort. -/
theorem lineSpritesInPriorityOrder : Obligations.LineSprites := by
  intro s ly
  have collected : lineSprites s ly =
      (((List.range 40).map (oamSprite s.mem.oam)).filter fun (sp : Sprite) =>
        decide (sp.y ≤ (ly : Int) ∧ (ly : Int) < sp.y + s.ppu.objHeight)).take 10 := by
    simp only [lineSprites, Sprite.coversLine, Bool.decide_and]
  have pixels {α : Type} (f : PixelSource → α) (sprites : List Sprite) :
      (((List.range screenWidth).map (pixelSource s sprites ly)).map f).length = 160 := by
    rw [List.length_map, List.length_map, List.length_range]
    rfl
  refine ⟨fun h => ⟨_, ?_, pixels (dmgShade s.ppu) (prioritySprites s ly)⟩,
    fun h => ⟨_, ?_, pixels (gbcColor s.mem) (prioritySprites s ly)⟩,
    fun oam i => ⟨rfl, rfl, rfl, rfl⟩, collected, List.length_take_le _ _,
    (List.take_sublist _ _).trans List.filter_sublist, fun sp hsp => ?_, fun few i hi hy hy' => ?_, fun _ => rfl, ?_,
    fun h => ?_, fun h => if_pos h⟩
  · rw [lineOutput]
    exact if_neg (by rw [h]; exact Bool.false_ne_true)
  · exact if_pos h
  · exact (sp.coversLine_iff _ _).1 (List.mem_filter.1 (List.mem_of_mem_take hsp)).2
  · have all : lineSprites s ly = ((List.range 40).map (oamSprite s.mem.oam)).filter _ :=
      List.take_of_length_le (by rw [lineSprites, List.length_take] at few; omega)
    rw [all]
    exact List.mem_filter.2 ⟨List.mem_map_of_mem (List.mem_range.2 hi), (Sprite.coversLine_iff _ _ _).2 ⟨hy, hy'⟩⟩
  · unfold prioritySprites
    split
    · exact .refl _
    · exact sortByX_perm _
  · have dmg : prioritySprites s ly = sortByX (lineSprites s ly) := if_neg (by rw [h]; exact Bool.false_ne_true)
    rw [dmg]
    exact ⟨sortByX_pairwise _, fun x => filter_sortByX _ x⟩

end Sys2Proof.Machine
end

section
/-! PROOFS. 62_dma_hdma.md R680 to R694: the OAM DMA, the bulk HDMA and the HBlank HDMA. -/

namespace Sys2Proof.Machine

/-! ## OAM DMA (R680 to R684) -/

theorem dmaLegal_iff (gbc : Bool) (v : Byte) :
    dmaLegal gbc v = true ↔
      v.toNat < 0x80 ∨ (0xC0 ≤ v.toNat ∧ v.toNat ≤ 0xDF) ∨ (gbc = true ∧ 0xA0 ≤ v.toNat ∧ v.toNat ≤ 0xBF) := by
  simp only [dmaLegal, Bool.or_eq_true, Bool.and_eq_true, decide_eq_true_iff, or_assoc]

theorem dmaWrite_legal {s : State} {v : Byte} (h : dmaLegal s.gbcMode v = true) :
    dmaWrite s v = { s with dma := { running := true, src := cat16 v 0, position := 0, phase := 0, last := v } } :=
  if_pos h

theorem dmaWrite_illegal {s : State} {v : Byte} (h : ¬dmaLegal s.gbcMode v = true) :
    dmaWrite s v = { s with dma := { s.dma with running := false, last := v } } :=
  if_neg h

theorem dmaWrite_last (s : State) (v : Byte) : (dmaWrite s v).dma.last = v := by
  by_cases h : dmaLegal s.gbcMode v = true
  · rw [dmaWrite_legal h]
  · rw [dmaWrite_illegal h]

theorem repeatN_dmaCycle_stopped {s : State} (h : s.dma.running = false) (n : Nat) : repeatN dmaCycle n s = s := by
  have still : dmaCycle s = s := if_neg (by rw [h]; exact Bool.false_ne_true)
  induction n with
  | zero => rfl
  | succ n ih => rw [repeatN_succ_apply, ih, still]

section
variable {s : State} (running : s.dma.running = true)
include running

theorem dmaCycle_wait (h : s.dma.phase + 1 ≠ 4) :
    dmaCycle s = { s with dma := { s.dma with phase := s.dma.phase + 1 } } :=
  (if_pos running).trans (if_neg h)

theorem repeatN_dmaCycle_wait {n : Nat} (h : s.dma.phase + n < 4) :
    repeatN dmaCycle n s = { s with dma := { s.dma with phase := s.dma.phase + n } } := by
  induction n with
  | zero => rfl
  | succ n ih =>
    rw [repeatN_succ_apply, ih (by omega)]
    exact dmaCycle_wait running (Nat.ne_of_lt h)

theorem dmaCycle_copy (h : s.dma.phase + 1 = 4) :
    dmaCycle s =
      { s with
        mem := { s.mem with
          oam := s.mem.oam.write s.dma.position (busRead s (s.dma.src + BitVec.ofNat 16 s.dma.position)) }
        dma := { s.dma with phase := 0, position := s.dma.position + 1, running := s.dma.position + 1 != oamSize } } :=
  (if_pos running).trans (if_pos h)

end

/-- The sources a legal page names do not read what the engine changes. -/
theorem busRead_of_dmaSource (s : State) (oam : Memory) (d : OamDma) {a : Word}
    (h : a.toNat < 0x8000 ∨ (0xA000 ≤ a.toNat ∧ a.toNat < 0xE000)) :
    busRead { s with mem := { s.mem with oam := oam }, dma := d } a = busRead s a := by
  unfold busRead
  by_cases rom : a.toNat < 0x8000
  · rw [locate_rom _ rom, locate_rom _ rom]
  by_cases ext : a.toNat < 0xC000
  · rw [locate_ext _ (by omega) ext, locate_ext _ (by omega) ext]
    rfl
  · rw [locate_wram _ (by omega) (by omega), locate_wram _ (by omega) (by omega)]
    rfl

/-- The engine after `i` of a page's bytes. -/
structure PageCopied (v : Byte) (i : Nat) (s t : State) : Prop where
  dma : t.dma = { running := i != 160, src := cat16 v 0, position := i, phase := 0, last := v }
  frame : t = { s with mem := { s.mem with oam := t.mem.oam }, dma := t.dma }
  copied : ∀ j, j < i → t.mem.oam.read j = busRead s (BitVec.ofNat 16 (256 * v.toNat + j))

theorem pageAddress (v : Byte) (i : Nat) : cat16 v 0 + BitVec.ofNat 16 i = BitVec.ofNat 16 (256 * v.toNat + i) := by
  apply BitVec.eq_of_toNat_eq
  have zero : (0 : Byte).toNat = 0 := rfl
  rw [BitVec.toNat_add, toNat_cat16, BitVec.toNat_ofNat, BitVec.toNat_ofNat, zero]
  omega

/-- Four cycles copy one byte. -/
theorem PageCopied.succ {v : Byte} {i : Nat} {s t : State} (legal : dmaLegal s.gbcMode v = true) (hi : i < 160)
    (h : PageCopied v i s t) : PageCopied v (i + 1) s (repeatN dmaCycle 4 t) := by
  obtain ⟨dma, frame, copied⟩ := h
  have source : busRead t (cat16 v 0 + BitVec.ofNat 16 i) = busRead s (BitVec.ofNat 16 (256 * v.toNat + i)) := by
    rw [frame, pageAddress]
    apply busRead_of_dmaSource
    rw [BitVec.toNat_ofNat]
    have page := (dmaLegal_iff _ _).1 legal
    omega
  have running : t.dma.running = true := by
    rw [dma]
    exact bne_iff_ne.2 (by omega)
  have phase : t.dma.phase = 0 := by rw [dma]
  rw [repeatN_succ_apply, repeatN_dmaCycle_wait running (by omega)]
  generalize hu : ({ t with dma := { t.dma with phase := t.dma.phase + 3 } } : State) = u
  have udma : u.dma = { running := true, src := cat16 v 0, position := i, phase := 3, last := v } := by
    rw [← hu, ← running, phase, dma]
  have sourceU : busRead u (cat16 v 0 + BitVec.ofNat 16 i) = busRead s (BitVec.ofNat 16 (256 * v.toNat + i)) := by
    rw [← source, ← hu]
    rfl
  rw [dmaCycle_copy (by rw [udma]) (by rw [udma]), udma, sourceU]
  refine ⟨rfl, ?_, fun j hj => ?_⟩
  · rw [← hu, frame]
  · show (u.mem.oam.write i _).read j = _
    rw [Memory.read_write, ← hu]
    split
    next hij => rw [hij]
    next hij => exact copied j (by omega)

/-- Settles O38: 640 cycles copy the page byte by byte; a stopped engine does nothing. -/
theorem oamDmaCopies : Obligations.OamDmaCopies := by
  intro s v legal t
  have write : busWrite s 0xFF46 v = dmaWrite s v := busWrite_io s (off := 0x46) v rfl (by decide)
  have legal_iff : legal ↔ dmaLegal s.gbcMode v = true := (dmaLegal_iff _ _).symm
  refine ⟨fun h => ?_, fun h => ?_, ?_⟩
  · have page : ∀ i ≤ 160, PageCopied v i s (repeatN dmaCycle (4 * i) (dmaWrite s v)) := by
      intro i hi
      induction i with
      | zero =>
        rw [dmaWrite_legal (legal_iff.1 h)]
        exact ⟨rfl, rfl, fun j hj => absurd hj (Nat.not_lt_zero j)⟩
      | succ i ih =>
        rw [Nat.mul_succ, repeatN_add]
        exact (ih (by omega)).succ (legal_iff.1 h) (by omega)
    have done : PageCopied v 160 s t := by
      simp only [t]
      rw [write]
      exact page 160 (Nat.le_refl _)
    exact ⟨done.copied, by rw [done.dma]; rfl, by rw [done.dma], done.frame⟩
  · have stopped := dmaWrite_illegal (fun k => h (legal_iff.2 k))
    refine ⟨write.trans stopped, repeatN_dmaCycle_stopped ?_ _⟩
    rw [write, stopped]
  · rw [write]
    exact (busRead_io _ (off := 0x46) rfl (by decide)).trans (dmaWrite_last s v)

/-! ## The HDMA's copy (R692) -/

/-- A source outside VRAM does not read what the copy changes, HDMA5's byte among it where that stays. -/
theorem busRead_of_hdmaSource {s : State} {a : Word} (h : ∀ j, locate s a ≠ .vram j) (vram : Memory) {d : Hdma}
    (hd : d.readControl = s.hdma.readControl) :
    busRead { s with mem := { s.mem with vram := vram }, hdma := d } a = busRead s a := by
  have same : locate { s with mem := { s.mem with vram := vram }, hdma := d } a = locate s a := rfl
  have gbc (off : Nat) : ioReadGbc { s with mem := { s.mem with vram := vram }, hdma := d } off = ioReadGbc s off := by
    unfold ioReadGbc
    rw [hd]
  have io (off : Nat) : ioRead { s with mem := { s.mem with vram := vram }, hdma := d } off = ioRead s off := by
    unfold ioRead
    rw [gbc]
  unfold busRead
  rw [same]
  cases hloc : locate s a
  case vram j => exact absurd hloc (h j)
  case io off => exact io off
  all_goals rfl

/-- What `n` copied bytes leave. -/
structure BytesCopied (n : Nat) (s t : State) : Prop where
  hdma : t.hdma = { s.hdma with src := s.hdma.src + BitVec.ofNat 16 n, dst := s.hdma.dst + BitVec.ofNat 13 n }
  only : CopyOnly s t
  copied : ∀ i, i < n →
    t.mem.vram.read (vbank s * 0x2000 + (s.hdma.dst.toNat + i) % 0x2000) = busRead s (s.hdma.src + BitVec.ofNat 16 i)

theorem bytesCopied_repeatN {n : Nat} {s : State} (hn : n ≤ 0x2000)
    (outside : ∀ i j, i < n → locate s (s.hdma.src + BitVec.ofNat 16 i) ≠ .vram j) :
    BytesCopied n s (repeatN hdmaCopyByte n s) := by
  induction n with
  | zero =>
    refine ⟨?_, .refl s, fun i hi => absurd hi (Nat.not_lt_zero i)⟩
    show s.hdma = { s.hdma with src := s.hdma.src + 0#16, dst := s.hdma.dst + 0#13 }
    rw [BitVec.add_zero, BitVec.add_zero]
  | succ n ih =>
    obtain ⟨hdma, only, copied⟩ := ih (by omega) fun i j hi => outside i j (by omega)
    rw [repeatN_succ_apply]
    generalize repeatN hdmaCopyByte n s = t at hdma only copied ⊢
    have byte : busRead t t.hdma.src = busRead s (s.hdma.src + BitVec.ofNat 16 n) := by
      rw [only, hdma]
      exact busRead_of_hdmaSource (fun j => outside n j (by omega)) _ rfl
    have bank : vbank t = vbank s := by rw [only]; rfl
    have dst : t.hdma.dst.toNat = (s.hdma.dst.toNat + n) % 0x2000 := by
      rw [hdma]
      show (s.hdma.dst + BitVec.ofNat 13 n).toNat = _
      rw [BitVec.toNat_add, BitVec.toNat_ofNat]
      omega
    refine ⟨?_, only.trans (hdmaCopyByte_copyOnly t), fun i hi => ?_⟩
    · show { t.hdma with src := t.hdma.src + 1, dst := t.hdma.dst + 1 } = _
      rw [hdma, add_ofNat_succ, add_ofNat_succ]
    · show (t.mem.vram.write (vbank t * 0x2000 + t.hdma.dst.toNat) (busRead t t.hdma.src)).read _ = _
      rw [bank, dst, byte, Memory.read_write]
      split
      next here =>
        have last : i = n := by omega
        rw [last]
      next elsewhere =>
        refine copied i (Nat.lt_of_le_of_ne (Nat.le_of_lt_succ hi) fun k => elsewhere ?_)
        rw [k]

/-! ## The engine at rest -/

/-- The HDMA engine and VRAM are as before. -/
def HdmaKept (s t : State) : Prop := t.hdma = s.hdma ∧ t.mem.vram = s.mem.vram

theorem HdmaKept.trans {s t u : State} (h : HdmaKept s t) (k : HdmaKept t u) : HdmaKept s u :=
  ⟨k.1.trans h.1, k.2.trans h.2⟩

theorem HdmaKept.repeatN {f : State → State} (hf : ∀ s, HdmaKept s (f s)) (n : Nat) (s : State) :
    HdmaKept s (repeatN f n s) := by
  induction n generalizing s with
  | zero => exact ⟨rfl, rfl⟩
  | succ n ih => exact (hf s).trans (ih _)

theorem dmaCycle_hdmaKept (s : State) : HdmaKept s (dmaCycle s) := by
  unfold dmaCycle
  split
  · dsimp only
    split <;> exact ⟨rfl, rfl⟩
  · exact ⟨rfl, rfl⟩

theorem timerCycle_hdmaKept (s : State) : HdmaKept s (timerCycle s) := by
  unfold timerCycle timerTick
  dsimp only
  split
  · split <;> exact ⟨rfl, rfl⟩
  · exact ⟨rfl, rfl⟩

theorem HdmaKept.ite {s t u : State} {p : Prop} [Decidable p] (h : HdmaKept s t) (k : HdmaKept s u) :
    HdmaKept s (if p then t else u) := by
  split
  · exact h
  · exact k

theorem spuCycle_hdmaKept (s : State) : HdmaKept s (spuCycle s) := by
  unfold spuCycle
  exact .ite ⟨rfl, rfl⟩ ⟨rfl, rfl⟩

theorem cartCycle_hdmaKept (now : Nat) (s : State) : HdmaKept s (cartCycle now s) := by
  unfold cartCycle
  split <;> exact ⟨rfl, rfl⟩

theorem cartSlot_hdmaKept (t : Nat) (s : State) : HdmaKept s (cartSlot t s) :=
  (((cartCycle_hdmaKept _ _).trans (cartCycle_hdmaKept _ _)).trans (cartCycle_hdmaKept _ _)).trans (cartCycle_hdmaKept _ _)

/-- Outside an HBlank entry a PPU cycle changes neither the engine nor a memory. -/
theorem ppuCycle_hdma_mem {s : State} (h : ¬(s.ppu.lcdEnable = true ∧ s.ppu.ly < 144 ∧ s.ppu.linePosition = 251)) :
    (ppuCycle s).hdma = s.hdma ∧ (ppuCycle s).mem = s.mem := by
  by_cases on : s.ppu.lcdEnable = true
  · by_cases h455 : s.ppu.linePosition = 455
    · rw [ppuCycle_lineEnd on h455]
      exact lineEnd_hdma_mem s
    · rw [ppuCycle_count on h455 fun k => h ⟨on, k.2, k.1⟩]
      exact ⟨rfl, rfl⟩
  · rw [ppuCycle_off (Bool.eq_false_iff.2 on)]
    exact ⟨rfl, rfl⟩

theorem hblankEntry_of_inactive {s : State} (h : s.hdma.active = false) : hblankEntry s = hblankEvents s := by
  rw [hblankEntry_eq]
  exact if_neg fun k => absurd k.1 (by rw [h]; exact Bool.false_ne_true)

theorem ppuCycle_hdmaKept {s : State} (h : s.hdma.active = false) : HdmaKept s (ppuCycle s) := by
  by_cases entry : s.ppu.lcdEnable = true ∧ s.ppu.ly < 144 ∧ s.ppu.linePosition = 251
  · obtain ⟨on, hl, hp⟩ := entry
    rw [ppuCycle_hblank on hp hl, hblankEntry_of_inactive (s := alongLine 1 s) h, hblankEvents_eq]
    exact ⟨rfl, rfl⟩
  · obtain ⟨hdma, mem⟩ := ppuCycle_hdma_mem entry
    exact ⟨hdma, congrArg Memories.vram mem⟩

theorem HdmaKept.repeatN_of_inactive {f : State → State} (hf : ∀ s, s.hdma.active = false → HdmaKept s (f s)) (n : Nat)
    {s : State} (h : s.hdma.active = false) : HdmaKept s (Machine.repeatN f n s) := by
  induction n generalizing s with
  | zero => exact ⟨rfl, rfl⟩
  | succ n ih => exact (hf s h).trans (ih (by rw [(hf s h).1, h]))

/-- With no transfer active a slot leaves the engine and VRAM as they are. -/
theorem cycle_hdmaKept (s : State) (h : s.hdma.active = false) : HdmaKept s (cycle s) :=
  ((((HdmaKept.repeatN_of_inactive (fun _ => ppuCycle_hdmaKept) slotCycles (s := { s with t := s.t + slotCycles }) h).trans
    (.repeatN dmaCycle_hdmaKept _ _)).trans (.repeatN timerCycle_hdmaKept _ _)).trans
      (.repeatN spuCycle_hdmaKept _ _)).trans (cartSlot_hdmaKept _ _)

theorem repeatN_cycle_t (n : Nat) (s : State) : (repeatN cycle n s).t = s.t + 4 * n := by
  induction n with
  | zero => rfl
  | succ n ih =>
    rw [repeatN_succ_apply, cycle_t, ih]
    rfl

/-! ## HDMA5 (R691, R694) -/

theorem busRead_hdma5 {s : State} (h : s.gbcMode = true) : busRead s 0xFF55 = s.hdma.readControl :=
  (busRead_io s (off := 0x55) rfl (by decide)).trans (if_pos h)

theorem busRead_withHdma {s : State} (h : s.gbcMode = true) (d : Hdma) : busRead { s with hdma := d } 0xFF55 = d.readControl :=
  busRead_hdma5 (s := { s with hdma := d }) h

theorem busWrite_hdma5 {s : State} (h : s.gbcMode = true) (v : Byte) : busWrite s 0xFF55 v = hdma5Write s v :=
  (busWrite_io s (off := 0x55) v rfl (by decide)).trans (if_pos h)

theorem readControl_ended (d : Hdma) (h : d.active = false) (hf : d.field = 0x7F) : d.readControl = 0xFF := by
  have top : (0x80#8 ||| (0x7F#7).zeroExtend 8) = 0xFF := by decide
  rw [Hdma.readControl, h, hf]
  exact top

theorem toNat_readControl_active {d : Hdma} (h : d.active = true) (h1 : 1 ≤ d.remaining) (h128 : d.remaining ≤ 128) :
    d.readControl.toNat = d.remaining - 1 := by
  have read : d.readControl = BitVec.zeroExtend 8 (BitVec.ofNat 7 (d.remaining + 127)) := if_pos h
  rw [read]
  simp only [BitVec.truncate_eq_setWidth, BitVec.toNat_setWidth, BitVec.toNat_ofNat]
  omega

theorem toNat_top_or : ∀ field : BitVec 7, (0x80#8 ||| field.zeroExtend 8).toNat = 0x80 + field.toNat := by decide

theorem toNat_low7 (v : Byte) : (v.extractLsb' 0 7).toNat = v.toNat % 128 := by
  rw [BitVec.extractLsb'_toNat, Nat.shiftRight_zero]

theorem top_clear_iff (v : Byte) : v.getLsbD 7 = false ↔ v.toNat < 128 :=
  Ppu.lcdEnable_eq_false_iff { Ppu.reset with lcdc := v }

section
variable {s : State} {v : Byte}

theorem hdma5Write_cancel (hv : v.toNat < 128) (active : s.hdma.active = true) (hblank : s.hdma.hblank = true) :
    hdma5Write s v = { s with hdma := { s.hdma with active := false, field := BitVec.ofNat 7 (s.hdma.remaining + 127) } } :=
  if_pos ⟨active, hblank, (top_clear_iff v).2 hv⟩

theorem hdma5Write_arm (hv : 128 ≤ v.toNat) :
    hdma5Write s v =
      { s with hdma := { s.hdma with active := true, hblank := true, remaining := v.toNat - 128 + 1 } } := by
  have top : v.getLsbD 7 = true := (Ppu.lcdEnable_iff { Ppu.reset with lcdc := v }).2 hv
  have blocks : (v.extractLsb' 0 7).toNat = v.toNat - 128 := by
    have byte := v.isLt
    rw [toNat_low7]
    omega
  rw [hdma5Write, top, blocks]
  exact (if_neg fun k => Bool.false_ne_true k.2.2.symm).trans (if_pos rfl)

theorem hdma5Write_bulk (hv : v.toNat < 128) (inactive : s.hdma.active = false) :
    hdma5Write s v = hdmaBulk { s with hdma := { s.hdma with remaining := v.toNat + 1, hblank := false } } := by
  have top : v.getLsbD 7 = false := (top_clear_iff v).2 hv
  have blocks : (v.extractLsb' 0 7).toNat = v.toNat := by rw [toNat_low7, Nat.mod_eq_of_lt hv]
  rw [hdma5Write, top, blocks, inactive]
  exact (if_neg fun k => Bool.false_ne_true k.1).trans (if_neg Bool.false_ne_true)

end

/-- Settles O39: the bytes are copied by `bytesCopied_repeatN`; the slots that follow leave the engine and VRAM alone. -/
theorem hdmaBulkCopies : Obligations.HdmaBulkCopies := by
  intro s v gbc hv inactive n outside t
  generalize hs1 : ({ s with hdma := { s.hdma with remaining := v.toNat + 1, hblank := false } } : State) = s1
  have source (i : Nat) (hi : i < n) :
      busRead s1 (s.hdma.src + BitVec.ofNat 16 i) = busRead s (s.hdma.src + BitVec.ofNat 16 i) := by
    rw [← hs1]
    refine busRead_of_hdmaSource (fun j => outside i j hi) s.mem.vram ?_
    simp only [Hdma.readControl, inactive, Bool.false_eq_true, if_false]
  have bytes := bytesCopied_repeatN (n := n) (s := s1) (by omega) (by rw [← hs1]; exact outside)
  generalize hu : repeatN hdmaCopyByte n s1 = u at bytes
  have started : t = repeatN cycle (n / 2)
      { u with hdma := { u.hdma with remaining := 0, active := false, field := 0x7F } } := by
    have length : s1.hdma.remaining * 16 = n := by
      rw [← hs1]
      exact Nat.mul_comm _ _
    simp only [t]
    rw [busWrite_hdma5 gbc, hdma5Write_bulk hv inactive, hs1, hdmaBulk, length, hu]
  obtain ⟨hdma, only, copied⟩ := bytes
  generalize hw : ({ u with hdma := { u.hdma with remaining := 0, active := false, field := 0x7F } } : State) = w at started
  have rest : w.hdma = { u.hdma with remaining := 0, active := false, field := 0x7F } := by rw [← hw]
  have kept : HdmaKept w t := started ▸ HdmaKept.repeatN_of_inactive cycle_hdmaKept (n / 2) (by rw [rest])
  have keptHdma := kept.1.trans rest
  have keptVram : t.mem.vram = u.mem.vram := kept.2.trans (by rw [← hw])
  have tgbc : t.gbcMode = true := (busWrite_progress s _ v).gbcMode.trans gbc
  have time : w.t = s.t := by
    rw [← hw]
    exact only.time.trans (by rw [← hs1])
  refine ⟨?_, ?_, ?_, ?_, ?_, fun i hi => ?_⟩
  · rw [started, repeatN_cycle_t, time]
    omega
  · rw [keptHdma]
  · rw [busRead_hdma5 tgbc, keptHdma]
    exact readControl_ended _ rfl rfl
  · rw [keptHdma, hdma, ← hs1]
  · rw [keptHdma, hdma, ← hs1]
  · rw [keptVram]
    have bank : vbank s1 = vbank s := by rw [← hs1]; rfl
    have dst : s1.hdma.dst = s.hdma.dst := by rw [← hs1]
    have src : s1.hdma.src = s.hdma.src := by rw [← hs1]
    rw [← source i hi, ← bank, ← dst, ← src]
    exact copied i hi

/-- Settles O40: HDMA5's three stores, the block by `bytesCopied_repeatN`, and the one PPU cycle that enters HBlank. -/
theorem hdmaHblankBlocks : Obligations.HdmaHblankBlocks := by
  refine ⟨fun s => ?_, fun s => ?_, fun s gbc => ⟨fun v hv => ?_, fun v hv active hblank inv => ?_,
    fun active inv outside => ?_⟩⟩
  · intro t u
    have events : hblankEvents s = u := by
      rw [hblankEvents_eq]
      simp only [u, t]
      rw [(hblankEntry_copyOnly s).int, hblankEntry_io]
    refine ⟨hblankEntry_io s, ?_⟩
    rw [← events]
    exact hblankEntry_eq s
  · show ite _ _ _
    split
    next h =>
      obtain ⟨on, hl, hp⟩ := h
      rw [ppuCycle_hblank ((Ppu.lcdEnable_iff _).2 on) hp hl, alongLine, hp]
    next h => exact ppuCycle_hdma_mem fun ⟨on, hl, hp⟩ => h ⟨(Ppu.lcdEnable_iff _).1 on, hl, hp⟩
  · have byte := v.isLt
    rw [busWrite_hdma5 gbc, hdma5Write_arm hv]
    refine ⟨rfl, ?_⟩
    rw [busRead_withHdma gbc, toNat_readControl_active rfl (by dsimp only; omega) (by dsimp only; omega)]
    exact Nat.add_sub_cancel (v.toNat - 128) 1
  · have left := inv.left active
    have atMost := inv.remaining
    rw [busWrite_hdma5 gbc, hdma5Write_cancel hv active hblank]
    refine ⟨rfl, ?_, rfl, rfl⟩
    rw [busRead_withHdma gbc]
    refine (toNat_top_or _).trans ?_
    rw [BitVec.toNat_ofNat]
    omega
  · intro t
    have left := inv.left active
    have atMost := inv.remaining
    obtain ⟨hdma, only, copied⟩ := bytesCopied_repeatN (n := 16) (s := s) (by decide) outside
    have block : t = hdmaBlock s := rfl
    rw [hdmaBlock] at block
    generalize repeatN hdmaCopyByte 16 s = u at hdma only copied block
    have remaining : u.hdma.remaining = s.hdma.remaining := by rw [hdma]
    have vram : t.mem.vram = u.mem.vram := by
      rw [block]
      dsimp only
      split <;> rfl
    have tgbc : t.gbcMode = true := ((hdmaBlock_copyOnly s).gbcMode).trans gbc
    refine ⟨fun i hi => vram ▸ copied i hi, ?_, ?_, (hdmaBlock_copyOnly s).time, fun h1 => ?_, fun h1 => ?_⟩
    · rw [block]
      dsimp only
      split <;> rw [hdma] <;> rfl
    · rw [block]
      dsimp only
      split <;> rw [hdma] <;> rfl
    · have ended : t.hdma = { u.hdma with remaining := 0, active := false, field := 0x7F } := by
        rw [block]
        dsimp only
        rw [if_pos (by omega)]
      refine ⟨by rw [ended], ?_⟩
      rw [busRead_hdma5 tgbc, ended]
      exact readControl_ended _ rfl rfl
    · have goesOn : t.hdma = { u.hdma with remaining := s.hdma.remaining - 1 } := by
        rw [block]
        dsimp only
        rw [if_neg (by omega), remaining]
      have stays : t.hdma.active = true := by
        rw [goesOn, hdma]
        exact active
      refine ⟨stays, ?_⟩
      rw [busRead_hdma5 tgbc, toNat_readControl_active stays (by rw [goesOn]; dsimp only; omega)
        (by rw [goesOn]; dsimp only; omega), goesOn]
      dsimp only
      omega

end Sys2Proof.Machine
end

section
/-! PROOFS. 64_spu.md R800 to R837: the frames, the master switch, the triggers and the length timer. -/

namespace Sys2Proof.Machine

/-! ## Amplitudes (R800, R803, R820) -/

theorem dutyTable_getD_le_one : ∀ (duty : BitVec 2) (phase : BitVec 3), (dutyTable duty).getD phase.toNat 0 ≤ 1 := by decide

theorem Pulse.amplitude_le (p : Pulse) : p.amplitude ≤ 15 := by
  have volume := p.env.volume.isLt
  unfold Pulse.amplitude
  split
  · calc (dutyTable p.duty).getD p.phase.toNat 0 * p.env.volume.toNat
        ≤ 1 * p.env.volume.toNat := Nat.mul_le_mul_right _ (dutyTable_getD_le_one p.duty p.phase)
      _ ≤ 15 := by omega
  · exact Nat.zero_le _

theorem waveSample_le (ram : Memory) (i : Nat) : waveSample ram i ≤ 15 := by
  have byte := (ram.read (i / 2)).isLt
  unfold waveSample
  dsimp only
  split <;> omega

theorem Wave.amplitude_le (w : Wave) (ram : Memory) : w.amplitude ram ≤ 15 := by
  unfold Wave.amplitude
  split
  · rw [Nat.shiftRight_eq_div_pow]
    exact (Nat.div_le_self _ _).trans (waveSample_le _ _)
  · exact Nat.zero_le _

theorem Noise.amplitude_le (n : Noise) : n.amplitude ≤ 15 := by
  have volume := n.env.volume.isLt
  unfold Noise.amplitude
  split <;> omega

theorem routed_le {amp : Nat} (h : amp ≤ 15) (nr51 : Byte) (bit : Nat) : routed nr51 bit amp ≤ 15 := by
  unfold routed
  split
  · exact h
  · exact Nat.zero_le _

theorem Spu.side_le (p : Spu) (ram : Memory) (bit : Nat) : p.side ram bit ≤ 60 := by
  have h1 := routed_le p.ch1.amplitude_le p.nr51 bit
  have h2 := routed_le p.ch2.amplitude_le p.nr51 (bit + 1)
  have h3 := routed_le (p.ch3.amplitude_le ram) p.nr51 (bit + 2)
  have h4 := routed_le p.ch4.amplitude_le p.nr51 (bit + 3)
  unfold Spu.side
  split <;> omega

theorem toNat_and_seven : ∀ v : Byte, (v &&& 7).toNat = v.toNat % 8 := by decide

/-- A side of a frame: four channels of at most 15, eight volume steps. -/
theorem side_scaled_le (p : Spu) (ram : Memory) (bit : Nat) (v : Byte) :
    p.side ram bit * ((v &&& 7).toNat + 1) * Config.ampUnit ≤ 480 * Config.ampUnit := by
  have volume : (v &&& 7).toNat + 1 ≤ 8 := by
    rw [toNat_and_seven]
    omega
  exact Nat.mul_le_mul_right _ (Nat.mul_le_mul (p.side_le ram bit) volume)

theorem lt_of_le_full_scale {n : Nat} (h : n ≤ 480 * Config.ampUnit) : n < 65536 := by
  have unit : Config.ampUnit < 137 := Config.ampUnitBelow137.isLt
  omega

/-! ## A frame in every 64 cycles (R801, R837) -/

/-- The SPU a cycle runs, before the sample phase moves (R830). -/
def Spu.run (p : Spu) : Spu := if p.master then p.channelsCycle else p

theorem Spu.run_samplePhase (p : Spu) : p.run.samplePhase = p.samplePhase := by
  unfold Spu.run
  split <;> rfl

section
variable {s : State}

theorem spuCycle_silent (h : s.spu.samplePhase + 1 ≠ 64) :
    spuCycle s = { s with spu := { s.spu.run with samplePhase := s.spu.samplePhase + 1 } } := by
  rw [← s.spu.run_samplePhase] at h ⊢
  exact if_neg h

theorem spuCycle_frame (h : s.spu.samplePhase + 1 = 64) :
    spuCycle s = emit (Spu.frame { s.spu.run with samplePhase := 0 } s.mem.wave)
      { s with spu := { s.spu.run with samplePhase := 0 } } := by
  rw [← s.spu.run_samplePhase] at h
  exact if_pos h

/-- Up to the frame's last cycle the sink hears nothing. -/
theorem repeatN_spuCycle_silent {n : Nat} (h : s.spu.samplePhase + n < 64) :
    ∃ p : Spu, p.samplePhase = s.spu.samplePhase + n ∧ repeatN spuCycle n s = { s with spu := p } := by
  induction n with
  | zero => exact ⟨s.spu, rfl, rfl⟩
  | succ n ih =>
    obtain ⟨p, phase, run⟩ := ih (by omega)
    refine ⟨{ p.run with samplePhase := p.samplePhase + 1 }, congrArg (· + 1) phase, ?_⟩
    rw [repeatN_succ_apply, run]
    exact spuCycle_silent (s := { s with spu := p }) (by dsimp only; omega)

end

/-- Settles O47: silence up to phase 63, the frame, and silence again. -/
theorem spuFrames : Obligations.SpuFrames := by
  intro s h t
  obtain ⟨p, phase, before⟩ := repeatN_spuCycle_silent (s := s) (n := 63 - s.spu.samplePhase) (by omega)
  have last := spuCycle_frame (s := { s with spu := p }) (by dsimp only; omega)
  have start : ({ p.run with samplePhase := 0 } : Spu).samplePhase = 0 := rfl
  generalize ({ p.run with samplePhase := 0 } : Spu) = q at last start
  obtain ⟨r, phase', after⟩ := repeatN_spuCycle_silent (n := s.spu.samplePhase)
    (s := emit (q.frame s.mem.wave) { s with spu := q }) (by show q.samplePhase + _ < 64; omega)
  have parts : 63 - s.spu.samplePhase + 1 + s.spu.samplePhase = 64 := by omega
  have run : t = { emit (q.frame s.mem.wave) { s with spu := q } with spu := r } := by
    simp only [t]
    rw [← parts, repeatN_add, repeatN_succ_apply, before, last, after]
  have left := side_scaled_le q s.mem.wave 4 (q.nr50 >>> 4)
  have right := side_scaled_le q s.mem.wave 0 q.nr50
  rw [run]
  exact ⟨_, _, rfl, phase'.trans (by show q.samplePhase + _ = _; omega), left, right, lt_of_le_full_scale left,
    lt_of_le_full_scale right, rfl⟩

/-! ## The master switch (R810, R815) -/

section
variable {a : Word} {off : Nat} (s : State) (ha : a.toNat = 0xFF00 + off)
include ha

theorem busRead_sound (h : 0x10 ≤ off ∧ off < 0x30) : busRead s a = s.spu.read off :=
  (busRead_io s ha (by omega)).trans (if_pos h)

theorem busWrite_sound (v : Byte) (h : 0x10 ≤ off ∧ off < 0x30) :
    busWrite s a v = { s with spu := s.spu.write off v } :=
  (busWrite_io s v ha (by omega)).trans (if_pos h)

theorem busRead_wave (h : 0x30 ≤ off ∧ off < 0x40) : busRead s a = s.mem.wave.read (off - 0x30) :=
  (busRead_io s ha (by omega)).trans ((if_neg (by omega)).trans (if_pos h))

theorem busWrite_wave (v : Byte) (h : 0x30 ≤ off ∧ off < 0x40) :
    busWrite s a v = { s with mem := { s.mem with wave := s.mem.wave.write (off - 0x30) v } } :=
  (busWrite_io s v ha (by omega)).trans ((if_neg (by omega)).trans (if_pos h))

end

theorem clearedSpu_read (phase off : Nat) : (clearedSpu phase).read off = (clearedSpu 0).read off := rfl

/-- The read masks of R816 over zeros. -/
theorem clearedSpu_reads :
    (clearedSpu 0).read 0x26 = 0x70 ∧ (clearedSpu 0).read 0x24 = 0 ∧ (clearedSpu 0).read 0x25 = 0 ∧
    (clearedSpu 0).read 0x12 = 0 ∧ (clearedSpu 0).read 0x17 = 0 ∧ (clearedSpu 0).read 0x21 = 0 ∧
    (clearedSpu 0).read 0x22 = 0 ∧ (clearedSpu 0).read 0x10 = 0x80 ∧ (clearedSpu 0).read 0x11 = 0x3F ∧
    (clearedSpu 0).read 0x16 = 0x3F ∧ (clearedSpu 0).read 0x1A = 0x7F ∧ (clearedSpu 0).read 0x1C = 0x9F ∧
    (clearedSpu 0).read 0x14 = 0xBF ∧ (clearedSpu 0).read 0x19 = 0xBF ∧ (clearedSpu 0).read 0x1E = 0xBF ∧
    (clearedSpu 0).read 0x23 = 0xBF := by
  decide

/-- Settles O48: the cleared SPU's registers read as 0 under their masks; without the master nothing runs and no store
lands. -/
theorem spuMasterSwitch : Obligations.SpuMasterSwitch := by
  intro s v
  refine ⟨fun master hv => ?_, fun off a h k => ?_, fun off => ?_, fun a h k => ?_⟩
  · intro t
    have cleared : t = { s with spu := clearedSpu s.spu.samplePhase } := by
      have write : t = { s with spu := s.spu.writeMaster v } := busWrite_sound s (off := 0x26) rfl v (by decide)
      have turnsOff : s.spu.master = true ∧ v.getLsbD 7 = false := ⟨master, (top_clear_iff v).2 hv⟩
      have off : s.spu.writeMaster v = clearedSpu s.spu.samplePhase := if_pos turnsOff
      rw [write, off]
    have read (off : Nat) {a : Word} (ha : a.toNat = 0xFF00 + off) (h : 0x10 ≤ off ∧ off < 0x30) :
        busRead t a = (clearedSpu 0).read off := by
      rw [cleared, busRead_sound _ ha h]
      exact clearedSpu_read _ off
    obtain ⟨r26, r24, r25, r12, r17, r21, r22, r10, r11, r16, r1A, r1C, r14, r19, r1E, r23⟩ := clearedSpu_reads
    exact ⟨(read 0x26 rfl (by decide)).trans r26, (read 0x24 rfl (by decide)).trans r24, (read 0x25 rfl (by decide)).trans r25,
      (read 0x12 rfl (by decide)).trans r12, (read 0x17 rfl (by decide)).trans r17, (read 0x21 rfl (by decide)).trans r21,
      (read 0x22 rfl (by decide)).trans r22, (read 0x10 rfl (by decide)).trans r10, (read 0x11 rfl (by decide)).trans r11,
      (read 0x16 rfl (by decide)).trans r16, (read 0x1A rfl (by decide)).trans r1A, (read 0x1C rfl (by decide)).trans r1C,
      (read 0x14 rfl (by decide)).trans r14, (read 0x19 rfl (by decide)).trans r19, (read 0x1E rfl (by decide)).trans r1E,
      (read 0x23 rfl (by decide)).trans r23, cleared⟩
  · have ignored (n : Nat) (hn : n ≠ 0x26) : s.spu.write n v = s.spu := by
      rw [Spu.write, if_neg hn]
      exact if_neg (by rw [off]; exact Bool.false_ne_true)
    rw [busWrite_sound s (off := a.toNat - 0xFF00) (by omega) v (by omega), ignored _ (by omega)]
  · have run : s.spu.run = s.spu := if_neg (by rw [off]; exact Bool.false_ne_true)
    by_cases last : s.spu.samplePhase + 1 = 64
    · rw [spuCycle_frame last, run]
      rfl
    · rw [spuCycle_silent last, run]
  · have range : 0x30 ≤ a.toNat - 0xFF00 ∧ a.toNat - 0xFF00 < 0x40 := by omega
    have ha : a.toNat = 0xFF00 + (a.toNat - 0xFF00) := by omega
    rw [busWrite_wave s ha v range, busRead_wave _ ha range]
    exact ⟨Memory.read_write_same _ _ _, rfl⟩

/-! ## Triggers and the length timer (R811, R813, R834) -/

theorem offsetHigh_eq (o : BitVec 11) (v : Byte) :
    offsetHigh o v = BitVec.ofNat 11 (o.toNat % 256 + 256 * (v.toNat % 8)) := by
  apply BitVec.eq_of_toNat_eq
  rw [offsetHigh, toNat_append_byte, BitVec.toNat_ofNat, BitVec.extractLsb'_toNat, BitVec.extractLsb'_toNat,
    Nat.shiftRight_zero, Nat.shiftRight_zero]
  omega

theorem Envelope.dacOn_eq (e : Envelope) : e.dacOn = decide (8 ≤ e.reg.toNat) := by
  have byte : ∀ v : Byte, ((v &&& 0xF8) != 0) = decide (8 ≤ v.toNat) := by decide
  exact byte e.reg

theorem Envelope.trigger_eq (e : Envelope) :
    e.trigger =
      { e with
        volume := BitVec.ofNat 4 (e.reg.toNat / 16)
        dir := e.reg.getLsbD 3
        steps := BitVec.ofNat 3 (e.reg.toNat % 8)
        timer := 65536 * (e.reg.toNat % 8) } := by
  have volume : ∀ v : Byte, v.extractLsb' 4 4 = BitVec.ofNat 4 (v.toNat / 16) := by decide
  have steps : ∀ v : Byte, v.extractLsb' 0 3 = BitVec.ofNat 3 (v.toNat % 8) := by decide
  rw [Envelope.trigger, volume, steps, toNat_and_seven]

/-- NRx4 of a pulse channel with bit 7 set. -/
theorem Pulse.writeControl_trigger {v : Byte} (top : v.getLsbD 7 = true) (p : Pulse) :
    p.writeControl v =
      { p with
        offset := BitVec.ofNat 11 (p.offset.toNat % 256 + 256 * (v.toNat % 8))
        lenEnable := v.getLsbD 6
        enabled := decide (8 ≤ p.env.reg.toNat)
        lenTimer := (64 - p.lenLoad.toNat) * 16384
        env :=
          { p.env with
            volume := BitVec.ofNat 4 (p.env.reg.toNat / 16)
            dir := p.env.reg.getLsbD 3
            steps := BitVec.ofNat 3 (p.env.reg.toNat % 8)
            timer := 65536 * (p.env.reg.toNat % 8) }
        freqTimer := 2 * (0x800 - (BitVec.ofNat 11 (p.offset.toNat % 256 + 256 * (v.toNat % 8))).toNat) } := by
  rw [Pulse.writeControl, top]
  simp only [if_true, Pulse.trigger, Envelope.dacOn_eq, Envelope.trigger_eq, offsetHigh_eq]
  rfl

theorem noisePeriod_eq (poly : Byte) :
    noisePeriod poly =
      (if poly.toNat % 8 = 0 then 4 else 8 * (poly.toNat % 8)) * 2 ^ (poly.toNat / 16 + 1) := by
  have shift : (poly >>> 4).toNat = poly.toNat / 16 := Nat.shiftRight_eq_div_pow _ _
  rw [noisePeriod, toNat_and_seven, shift, Nat.shiftLeft_eq]

theorem Pulse.freqCycle_length (p : Pulse) :
    p.freqCycle.enabled = p.enabled ∧ p.freqCycle.lenEnable = p.lenEnable ∧ p.freqCycle.lenTimer = p.lenTimer := by
  unfold Pulse.freqCycle
  split <;> exact ⟨rfl, rfl, rfl⟩

/-- With the length enabled a cycle counts the length timer down and turns the channel off where it runs out. -/
theorem Pulse.cycle_length {p : Pulse} (h : p.lenEnable = true) :
    p.cycle.lenEnable = true ∧ p.cycle.lenTimer = p.lenTimer - 1 ∧
      p.cycle.enabled = (p.enabled && !decide (p.lenTimer ≤ 1)) := by
  obtain ⟨enabled, lenEnable, lenTimer⟩ := p.freqCycle_length
  rw [Pulse.cycle, Pulse.tailCycle, lengthCycle, lenEnable, h, lenTimer, enabled]
  exact ⟨rfl, rfl, rfl⟩

/-- Settles O49: the stores by `Spu.writeReg`'s rows, the length by induction over the cycles. -/
theorem pulseTriggerAndLength : Obligations.PulseTriggerAndLength := by
  refine ⟨fun s v master hv => ?_, fun p n enabled lenEnable h => ?_⟩
  · have top : v.getLsbD 7 = true := (Ppu.lcdEnable_iff { Ppu.reset with lcdc := v }).2 hv
    have write (off : Nat) (h : off ≠ 0x26) : s.spu.write off v = s.spu.writeReg off v := (if_neg h).trans (if_pos master)
    refine ⟨?_, ?_, ?_, ?_⟩
    · rw [busWrite_sound s (off := 0x14) rfl v (by decide), write 0x14 (by decide)]
      simp only [Spu.writeReg, s.spu.ch1.writeControl_trigger top, top, if_true]
    · rw [busWrite_sound s (off := 0x19) rfl v (by decide), write 0x19 (by decide)]
      simp only [Spu.writeReg, s.spu.ch2.writeControl_trigger top]
    · rw [busWrite_sound s (off := 0x1E) rfl v (by decide), write 0x1E (by decide)]
      simp only [Spu.writeReg, Wave.writeControl, top, if_true, Wave.trigger, offsetHigh_eq]
      rfl
    · rw [busWrite_sound s (off := 0x23) rfl v (by decide), write 0x23 (by decide)]
      simp only [Spu.writeReg, Noise.writeControl, top, if_true, Noise.trigger, Envelope.dacOn_eq,
        Envelope.trigger_eq, noisePeriod_eq]
      rfl
  · suffices counted : (repeatN Pulse.cycle n p).lenEnable = true ∧ (repeatN Pulse.cycle n p).lenTimer = p.lenTimer - n ∧
        (repeatN Pulse.cycle n p).enabled = decide (n < p.lenTimer) from counted.2.2
    induction n with
    | zero => exact ⟨lenEnable, rfl, enabled.trans (decide_eq_true h).symm⟩
    | succ n ih =>
      obtain ⟨on, left, running⟩ := ih
      obtain ⟨on', left', running'⟩ := Pulse.cycle_length on
      rw [repeatN_succ_apply]
      refine ⟨on', by rw [left', left]; omega, ?_⟩
      rw [running', running, left, ← decide_not, ← Bool.decide_and, decide_eq_decide]
      omega

end Sys2Proof.Machine
end

section
/-! PROOFS. 65_cartridge.md R887 to R896: the ROM windows, the mapper commands and the MBC3 clock. -/

namespace Sys2Proof.Machine

/-! ## The ROM windows (R887, R890) -/

section
variable {c : Cart}

theorem Cart.romBankAt4000_of_remaps (h : c.mapper.remapsBank0 = true) :
    c.romBankAt4000 = if c.romBankRequest % c.romBanks = 0 then 1 else c.romBankRequest % c.romBanks := by
  simp only [Cart.romBankAt4000, h, and_true]

theorem Cart.romBankAt4000_of_not_remaps (h : c.mapper.remapsBank0 = false) :
    c.romBankAt4000 = c.romBankRequest % c.romBanks := by
  simp only [Cart.romBankAt4000, h, Bool.false_eq_true, and_false, if_false]

theorem Cart.romBankAt4000_lt (h : 2 ≤ c.romBanks) : c.romBankAt4000 < c.romBanks := by
  have reduced := Nat.mod_lt c.romBankRequest (by omega : 0 < c.romBanks)
  unfold Cart.romBankAt4000
  dsimp only
  split <;> omega

theorem Cart.romBankAt4000_plain (h : 2 ≤ c.romBanks) (hm : c.mapper = .plain) : c.romBankAt4000 = 1 := by
  have request : c.romBankRequest = 1 := by rw [Cart.romBankRequest, hm]
  rw [romBankAt4000_of_not_remaps (by rw [hm]; rfl), request]
  exact Nat.mod_eq_of_lt h

theorem Cart.romBankAt4000_ne_zero (h : 2 ≤ c.romBanks) (hm : c.mapper ≠ .mbc5) : c.romBankAt4000 ≠ 0 := by
  by_cases plain : c.mapper = .plain
  · rw [romBankAt4000_plain h plain]
    exact Nat.one_ne_zero
  · have remaps : c.mapper.remapsBank0 = true := by
      revert hm plain
      cases c.mapper <;> decide
    rw [romBankAt4000_of_remaps remaps]
    split
    · exact Nat.one_ne_zero
    · assumption

end

/-- Settles O50: the bank by its mapper, and the windows by `locate`'s first row. -/
theorem romBankWindow : Obligations.RomBankWindow := by
  refine ⟨fun c h => ?_, fun s a v => ?_⟩
  · intro remap
    refine ⟨Cart.romBankAt4000_lt h, Cart.romBankAt4000_ne_zero h, Cart.romBankAt4000_plain h, fun hm => ?_, fun hm => ?_,
      fun hm => ?_⟩
    · rw [Cart.romBankAt4000_of_remaps (by rw [hm]; rfl), Cart.romBankRequest, hm]
    · rcases hm with hm | hm <;> rw [Cart.romBankAt4000_of_remaps (by rw [hm]; rfl), Cart.romBankRequest, hm]
    · rw [Cart.romBankAt4000_of_not_remaps (by rw [hm]; rfl), Cart.romBankRequest, hm]
  · have read (h : a.toNat < 0x8000) : busRead s a = s.mem.rom.read (s.cart.romIndex a.toNat) := by
      rw [busRead, locate_rom s h]
    refine ⟨fun h => ?_, fun h k => ?_, fun h hm => ?_⟩
    · rw [read (by omega), Cart.romIndex, if_pos h]
    · rw [read k, Cart.romIndex, if_neg (by omega)]
    · rw [busWrite, locate_rom s h]
      exact mapperWrite_plain _ v hm

/-! ## The mapper commands (R890 to R894) -/

theorem unlocks_eq (v : Byte) : unlocks v = decide (v.toNat % 16 = 10) := by
  have byte : ∀ v : Byte, (v &&& 0x0F == 0x0A) = decide (v.toNat % 16 = 10) := by decide
  exact byte v

theorem getLsbD_zero_eq (v : Byte) : v.getLsbD 0 = decide (v.toNat % 2 = 1) := by
  rw [BitVec.getLsbD, Nat.testBit_zero]

theorem toNat_widened_and (v : Byte) {m : BitVec 9} {k : Nat} (h : m.toNat = 2 ^ k - 1) :
    (v.zeroExtend 9 &&& m).toNat = v.toNat % 2 ^ k := by
  have byte := v.isLt
  rw [BitVec.toNat_and, h, Nat.and_two_pow_sub_one_eq_mod]
  simp only [BitVec.truncate_eq_setWidth, BitVec.toNat_setWidth]
  rw [Nat.mod_eq_of_lt (by omega : v.toNat < 2 ^ 9)]

theorem toNat_truncate4 (v : Byte) : (v.truncate 4).toNat = v.toNat % 16 := by
  rw [BitVec.truncate_eq_setWidth, BitVec.toNat_setWidth]

/-- Two fields of a byte or bank register side by side. -/
theorem toNat_or_fields {w k n : Nat} {hi lo : BitVec w} (h : hi.toNat = 2 ^ k * n) (l : lo.toNat < 2 ^ k) :
    (hi ||| lo).toNat = hi.toNat + lo.toNat := by
  rw [BitVec.toNat_or, h, Nat.two_pow_add_eq_or_of_lt l]

section
variable (b : BitVec 9) (v : Byte)

theorem toNat_bank_and_low {m : BitVec 9} {k : Nat} (h : m.toNat = 2 ^ k - 1) : (b &&& m).toNat = b.toNat % 2 ^ k := by
  rw [BitVec.toNat_and, h, Nat.and_two_pow_sub_one_eq_mod]

theorem toNat_mbc1_low (h : b.toNat < 128) :
    ((b &&& 0x60) ||| (v.zeroExtend 9 &&& 0x1F) : BitVec 9).toNat = b.toNat / 32 * 32 + v.toNat % 32 := by
  have high : ∀ b : BitVec 9, (b &&& 0x60).toNat = 2 ^ 5 * (b.toNat / 32 % 4) := by decide
  have low : (v.zeroExtend 9 &&& 0x1F).toNat = v.toNat % 2 ^ 5 := toNat_widened_and v rfl
  rw [toNat_or_fields (high b) (by omega), high, low]
  omega

theorem toNat_mbc1_high :
    ((b &&& 0x1F) ||| ((v.zeroExtend 9 &&& 3) <<< 5) : BitVec 9).toNat = b.toNat % 32 + 32 * (v.toNat % 4) := by
  have low : (b &&& ((0x1F : Nat) : BitVec 9)).toNat = b.toNat % 2 ^ 5 := toNat_bank_and_low b rfl
  have bits : (v.zeroExtend 9 &&& 3).toNat = v.toNat % 2 ^ 2 := toNat_widened_and v rfl
  have high : ((v.zeroExtend 9 &&& 3) <<< 5).toNat = 2 ^ 5 * (v.toNat % 4) := by
    rw [BitVec.toNat_shiftLeft, bits, Nat.shiftLeft_eq]
    omega
  rw [BitVec.or_comm, toNat_or_fields high (by omega), high, low]
  omega

theorem toNat_mbc5_low : ((b &&& 0x100) ||| v.zeroExtend 9 : BitVec 9).toNat = b.toNat / 256 * 256 + v.toNat := by
  have high : ∀ b : BitVec 9, (b &&& 0x100).toNat = 2 ^ 8 * (b.toNat / 256) := by decide
  have low : (v.zeroExtend 9).toNat = v.toNat := by
    simp only [BitVec.truncate_eq_setWidth, BitVec.toNat_setWidth]
    exact Nat.mod_eq_of_lt (v.isLt.trans (by decide))
  rw [toNat_or_fields (high b) (low ▸ v.isLt), high, low]
  omega

theorem toNat_mbc5_high :
    ((b &&& 0xFF) ||| ((v.zeroExtend 9 &&& 1) <<< 8) : BitVec 9).toNat = b.toNat % 256 + 256 * (v.toNat % 2) := by
  have low : (b &&& ((0xFF : Nat) : BitVec 9)).toNat = b.toNat % 2 ^ 8 := toNat_bank_and_low b rfl
  have bits : (v.zeroExtend 9 &&& 1).toNat = v.toNat % 2 ^ 1 := toNat_widened_and v rfl
  have high : ((v.zeroExtend 9 &&& 1) <<< 8).toNat = 2 ^ 8 * (v.toNat % 2) := by
    rw [BitVec.toNat_shiftLeft, bits, Nat.shiftLeft_eq]
    omega
  rw [BitVec.or_comm, toNat_or_fields high (by omega), high, low]
  omega

end

section
variable (c : Cart) (n : Nat) (v : Byte)

/-- No command of a mapper without a clock touches more than the four registers. -/
def Cart.KeepsHeader (c d : Cart) : Prop :=
  d = { c with ramEnable := d.ramEnable, romBank := d.romBank, ramBank := d.ramBank, mode := d.mode }

theorem writeMbc1_keepsHeader : c.KeepsHeader (c.writeMbc1 n v) := by
  unfold Cart.writeMbc1
  repeat' split
  all_goals rfl

theorem writeMbc2_keepsHeader : c.KeepsHeader (c.writeMbc2 n v) := by
  unfold Cart.writeMbc2
  repeat' split
  all_goals rfl

theorem writeMbc5_keepsHeader : c.KeepsHeader (c.writeMbc5 n v) := by
  unfold Cart.writeMbc5
  repeat' split
  all_goals rfl

theorem writeMbc1_ramEnable : (c.writeMbc1 n v).ramEnable = if n < 0x2000 then unlocks v else c.ramEnable := by
  simp only [Cart.writeMbc1, apply_ite Cart.ramEnable, ite_self]

theorem writeMbc1_romBank (h : c.romBank.toNat < 128) : (c.writeMbc1 n v).romBank.toNat =
    if 0x2000 ≤ n ∧ n < 0x4000 then c.romBank.toNat / 32 * 32 + v.toNat % 32
    else if 0x4000 ≤ n ∧ n < 0x6000 ∧ c.mode = false then c.romBank.toNat % 32 + 32 * (v.toNat % 4)
    else c.romBank.toNat := by
  simp only [Cart.writeMbc1, apply_ite Cart.romBank, apply_ite BitVec.toNat, toNat_mbc1_low _ _ h, toNat_mbc1_high]
  cases c.mode <;> simp only [Bool.false_eq_true, Bool.true_eq_false, and_true, and_false, if_true, if_false] <;>
    split_ifs <;> omega

theorem writeMbc1_ramBank : (c.writeMbc1 n v).ramBank.toNat =
    if 0x4000 ≤ n ∧ n < 0x6000 ∧ c.mode = true then v.toNat % 4 else c.ramBank.toNat := by
  have bits : ∀ v : Byte, (v.truncate 4 &&& 3).toNat = v.toNat % 4 := by decide
  simp only [Cart.writeMbc1, apply_ite Cart.ramBank, apply_ite BitVec.toNat, bits]
  cases c.mode <;> simp only [Bool.false_eq_true, and_true, and_false, if_true, if_false, ite_self]
  split_ifs <;> omega

theorem writeMbc1_mode : (c.writeMbc1 n v).mode = if 0x6000 ≤ n then v.getLsbD 0 else c.mode := by
  simp only [Cart.writeMbc1, apply_ite Cart.mode, ite_self]
  by_cases high : 0x6000 ≤ n
  · rw [if_pos high, if_neg (by omega), if_neg (by omega), if_neg (by omega)]
  · simp only [high, Nat.lt_of_not_le high, if_true, if_false, ite_self]

/-- Address bit 8 selects the command of an MBC2 from 0x2000 on. -/
theorem mbc2_selects_bank_iff : mbc2BankBit8 = n.testBit 8 ∧ 0x2000 ≤ n ↔ 0x2000 ≤ n ∧ n / 256 % 2 = 0 := by
  have bit : mbc2BankBit8 = n.testBit 8 ↔ n / 256 % 2 = 0 := by
    rw [mbc2BankBit8, Nat.testBit_eq_decide_div_mod_eq, eq_comm, decide_eq_false_iff_not]
    omega
  rw [bit, and_comm]

theorem writeMbc2_ramEnable : (c.writeMbc2 n v).ramEnable =
    if n < 0x4000 ∧ ¬(0x2000 ≤ n ∧ n / 256 % 2 = 0) then unlocks v else c.ramEnable := by
  simp only [Cart.writeMbc2, mbc2_selects_bank_iff, apply_ite Cart.ramEnable]
  by_cases low : n < 0x4000 <;> by_cases bank : 0x2000 ≤ n ∧ n / 256 % 2 = 0 <;> simp only [low, bank] <;> rfl

theorem writeMbc2_romBank : (c.writeMbc2 n v).romBank.toNat =
    if 0x2000 ≤ n ∧ n < 0x4000 ∧ n / 256 % 2 = 0 then v.toNat % 16 else c.romBank.toNat := by
  have bits : (v.zeroExtend 9 &&& 0x0F).toNat = v.toNat % 16 := toNat_widened_and v (k := 4) rfl
  simp only [Cart.writeMbc2, mbc2_selects_bank_iff, apply_ite Cart.romBank, apply_ite BitVec.toNat, bits]
  split_ifs <;> omega

theorem writeMbc2_unbanked : (c.writeMbc2 n v).ramBank = c.ramBank ∧ (c.writeMbc2 n v).mode = c.mode := by
  unfold Cart.writeMbc2
  repeat' split
  all_goals exact ⟨rfl, rfl⟩

theorem writeMbc5_ramEnable : (c.writeMbc5 n v).ramEnable = if n < 0x2000 then unlocks v else c.ramEnable := by
  simp only [Cart.writeMbc5, apply_ite Cart.ramEnable, ite_self]

theorem writeMbc5_romBank : (c.writeMbc5 n v).romBank.toNat =
    if 0x2000 ≤ n ∧ n < 0x3000 then c.romBank.toNat / 256 * 256 + v.toNat
    else if 0x3000 ≤ n ∧ n < 0x4000 then c.romBank.toNat % 256 + 256 * (v.toNat % 2)
    else c.romBank.toNat := by
  simp only [Cart.writeMbc5, apply_ite Cart.romBank, apply_ite BitVec.toNat, ite_self, toNat_mbc5_low, toNat_mbc5_high]
  split_ifs <;> omega

theorem writeMbc5_ramBank : (c.writeMbc5 n v).ramBank.toNat =
    if 0x4000 ≤ n ∧ n < 0x6000 then v.toNat % 16 else c.ramBank.toNat := by
  simp only [Cart.writeMbc5, apply_ite Cart.ramBank, apply_ite BitVec.toNat, toNat_truncate4]
  split_ifs <;> omega

theorem writeMbc5_mode : (c.writeMbc5 n v).mode = c.mode := by
  simp only [Cart.writeMbc5, apply_ite Cart.mode, ite_self]

theorem writeMbc3_frame : c.writeMbc3 n v =
    { c with
      ramEnable := (c.writeMbc3 n v).ramEnable
      romBank := (c.writeMbc3 n v).romBank
      ramSel := (c.writeMbc3 n v).ramSel
      rtc := { c.rtc with latchFlag := (c.writeMbc3 n v).rtc.latchFlag } } := by
  unfold Cart.writeMbc3
  repeat' split
  all_goals rfl

theorem writeMbc3_ramEnable : (c.writeMbc3 n v).ramEnable = if n < 0x2000 then unlocks v else c.ramEnable := by
  simp only [Cart.writeMbc3, apply_ite Cart.ramEnable, ite_self]

theorem writeMbc3_romBank : (c.writeMbc3 n v).romBank.toNat =
    if 0x2000 ≤ n ∧ n < 0x4000 then v.toNat % 128 else c.romBank.toNat := by
  have bits : (v.zeroExtend 9 &&& 0x7F).toNat = v.toNat % 128 := toNat_widened_and v (k := 7) rfl
  simp only [Cart.writeMbc3, apply_ite Cart.romBank, apply_ite BitVec.toNat, ite_self, bits]
  split_ifs <;> omega

theorem writeMbc3_ramSel : (c.writeMbc3 n v).ramSel.toNat =
    if 0x4000 ≤ n ∧ n < 0x6000 then v.toNat % 16 else c.ramSel.toNat := by
  simp only [Cart.writeMbc3, apply_ite Cart.ramSel, apply_ite BitVec.toNat, toNat_truncate4]
  split_ifs <;> omega

theorem writeMbc3_latchFlag : (c.writeMbc3 n v).rtc.latchFlag = if 0x6000 ≤ n then v.getLsbD 0 else c.rtc.latchFlag := by
  simp only [Cart.writeMbc3, apply_ite Cart.rtc, apply_ite Rtc.latchFlag]
  by_cases high : 0x6000 ≤ n
  · rw [if_pos high, if_neg (by omega), if_neg (by omega), if_neg (by omega)]
  · simp only [high, Nat.lt_of_not_le high, if_true, if_false, ite_self]

end

/-! ## The wall clock and the latch (R893; 66_input_host.md R958) -/

/-- One reading of the wall clock: `now`, which becomes the latest, the next of the pending list where there is one. -/
structure WallRead (s : State) (now : Nat) (t : State) : Prop where
  frame : t = { s with io := { s.io with wallQueue := t.io.wallQueue, wallLast := now, wallReads := t.io.wallReads } }
  monotone : s.io.wallLast ≤ now
  queue : ∀ w ws, s.io.wallQueue = w :: ws → now = max w s.io.wallLast ∧ t.io.wallQueue = ws

theorem wallRead_readWall (s : State) : WallRead s (readWall s).1 (readWall s).2 := by
  cases h : s.io.wallQueue with
  | nil =>
    simp only [readWall, h]
    exact ⟨rfl, Nat.le_add_right _ _, fun w ws k => by rw [h] at k; exact absurd k (List.cons_ne_nil w ws).symm⟩
  | cons w ws =>
    simp only [readWall, h]
    refine ⟨rfl, Nat.le_max_right _ _, fun w' ws' k => ?_⟩
    obtain ⟨rfl, rfl⟩ := List.cons.inj (h.symm.trans k)
    exact ⟨rfl, rfl⟩

theorem rtcNow_halted {s : State} (h : s.cart.rtc.halted = true) : rtcNow s = (s.cart.rtc.haltTs, s) := if_pos h

theorem rtcNow_running {s : State} (h : s.cart.rtc.halted = false) : rtcNow s = readWall s :=
  if_neg (by rw [h]; exact Bool.false_ne_true)

/-- The machine the clock is read in: the same but for the wall clock's reading. -/
theorem rtcNow_frame (s : State) :
    (rtcNow s).2 =
      { s with io := { s.io with
          wallQueue := (rtcNow s).2.io.wallQueue
          wallLast := (rtcNow s).2.io.wallLast
          wallReads := (rtcNow s).2.io.wallReads } } := by
  cases h : s.cart.rtc.halted with
  | true => rw [rtcNow_halted h]
  | false =>
    rw [rtcNow_running h]
    have frame := (wallRead_readWall s).frame
    have last : (readWall s).2.io.wallLast = (readWall s).1 := by rw [frame]
    rw [last]
    exact frame

theorem rtcLatch_eq {s : State} (h : s.cart.hasRtc = true) :
    rtcLatch s = (rtcNow s).2.setRtc (s.cart.rtc.latchedAt ((rtcNow s).1 - s.cart.rtc.base)) := by
  have cart : (rtcNow s).2.cart = s.cart := by rw [rtcNow_frame]
  rw [rtcLatch, if_pos h]
  dsimp only
  rw [cart]

theorem rtcLatch_without {s : State} (h : s.cart.hasRtc = false) : rtcLatch s = s :=
  if_neg (by rw [h]; exact Bool.false_ne_true)

/-- Of the cartridge a latch changes the snapshot's five registers alone. -/
theorem rtcLatch_cart (s : State) :
    ∃ r : Rtc, (rtcLatch s).cart = { s.cart with rtc := r } ∧ r.latchFlag = s.cart.rtc.latchFlag := by
  cases h : s.cart.hasRtc with
  | true =>
    rw [rtcLatch_eq h, rtcNow_frame]
    exact ⟨_, rfl, rfl⟩
  | false =>
    rw [rtcLatch_without h]
    exact ⟨_, rfl, rfl⟩

/-- Settles O51: each mapper's command register by register. -/
theorem mapperCommands : Obligations.MapperCommands := by
  intro s a v h t n enable
  have write : t = mapperWrite s n v := by
    simp only [t]
    rw [busWrite, locate_rom s h]
  have enabled : unlocks v = enable := unlocks_eq v
  have plain (hm : s.cart.mapper = .plain) : t = s := write.trans (mapperWrite_plain n v hm)
  have mbc1 (hm : s.cart.mapper = .mbc1) : t = { s with cart := s.cart.writeMbc1 n v } := by rw [write, mapperWrite, hm]
  have mbc2 (hm : s.cart.mapper = .mbc2) : t = { s with cart := s.cart.writeMbc2 n v } := by rw [write, mapperWrite, hm]
  have mbc5 (hm : s.cart.mapper = .mbc5) : t = { s with cart := s.cart.writeMbc5 n v } := by rw [write, mapperWrite, hm]
  refine ⟨fun hm => ?_, plain, fun hm h128 => ?_, fun hm => ?_, fun hm => ?_, fun hm => ?_⟩
  · cases hc : s.cart.mapper with
    | plain =>
      rw [plain hc]
      exact ⟨rfl, rfl⟩
    | mbc1 =>
      rw [mbc1 hc]
      exact ⟨rfl, writeMbc1_keepsHeader _ _ _⟩
    | mbc2 =>
      rw [mbc2 hc]
      exact ⟨rfl, writeMbc2_keepsHeader _ _ _⟩
    | mbc3 => exact absurd hc hm
    | mbc5 =>
      rw [mbc5 hc]
      exact ⟨rfl, writeMbc5_keepsHeader _ _ _⟩
  · rw [mbc1 hm, ← enabled, ← getLsbD_zero_eq]
    exact ⟨writeMbc1_ramEnable _ _ _, writeMbc1_romBank _ _ _ h128, writeMbc1_ramBank _ _ _, writeMbc1_mode _ _ _⟩
  · rw [mbc2 hm, ← enabled]
    obtain ⟨ramBank, mode⟩ := writeMbc2_unbanked s.cart n v
    exact ⟨writeMbc2_ramEnable _ _ _, writeMbc2_romBank _ _ _, ramBank, mode⟩
  · rw [mbc5 hm, ← enabled]
    exact ⟨writeMbc5_ramEnable _ _ _, writeMbc5_romBank _ _ _, writeMbc5_ramBank _ _ _, writeMbc5_mode _ _ _⟩
  · intro latches u
    have latchesIff : (0x6000 ≤ n ∧ s.cart.rtc.latchFlag = false ∧ v.getLsbD 0 = true) = latches := by
      simp only [getLsbD_zero_eq, decide_eq_true_eq, latches]
    have mbc3 : t = { u with cart := u.cart.writeMbc3 n v } := by
      rw [write, mapperWrite, hm]
      simp only [latchesIff]
      rfl
    obtain ⟨r, cart, flag⟩ : ∃ r : Rtc, u.cart = { s.cart with rtc := r } ∧ r.latchFlag = s.cart.rtc.latchFlag := by
      simp only [u]
      split
      · exact rtcLatch_cart s
      · exact ⟨_, rfl, rfl⟩
    rw [mbc3, ← enabled, ← getLsbD_zero_eq]
    refine ⟨rfl, writeMbc3_frame _ _ _, ?_, ?_, ?_, ?_⟩
    · exact (writeMbc3_ramEnable _ _ _).trans (by rw [cart])
    · exact (writeMbc3_romBank _ _ _).trans (by rw [cart])
    · exact (writeMbc3_ramSel _ _ _).trans (by rw [cart])
    · exact (writeMbc3_latchFlag _ _ _).trans (by rw [cart, flag])

/-! ## The clock's registers (R893, R896) -/

section
variable (r : Rtc) {sel : Nat} (v : Byte)

theorem Rtc.writeReg_frame : (r.writeReg sel v).base = r.base ∧ (r.writeReg sel v).halted = r.halted ∧
    (r.writeReg sel v).haltTs = r.haltTs ∧ (r.writeReg sel v).latchFlag = r.latchFlag := by
  unfold Rtc.writeReg
  split <;> exact ⟨rfl, rfl, rfl, rfl⟩

theorem Rtc.writeReg_s (h : sel ≠ 8) : (r.writeReg sel v).s = r.s := by
  unfold Rtc.writeReg
  split
  case h_1 => exact absurd rfl h
  all_goals rfl

theorem Rtc.writeReg_m (h : sel ≠ 9) : (r.writeReg sel v).m = r.m := by
  unfold Rtc.writeReg
  split
  case h_2 => exact absurd rfl h
  all_goals rfl

theorem Rtc.writeReg_h (h : sel ≠ 10) : (r.writeReg sel v).h = r.h := by
  unfold Rtc.writeReg
  split
  case h_3 => exact absurd rfl h
  all_goals rfl

theorem Rtc.writeReg_dayl (h : sel ≠ 11) : (r.writeReg sel v).dayl = r.dayl := by
  unfold Rtc.writeReg
  split
  case h_4 => exact absurd rfl h
  all_goals rfl

theorem Rtc.writeReg_dayh (h : 8 ≤ sel ∧ sel < 12) : (r.writeReg sel v).dayh = r.dayh := by
  obtain rfl | rfl | rfl | rfl : sel = 8 ∨ sel = 9 ∨ sel = 10 ∨ sel = 11 := by omega
  all_goals rfl

/-- The widths of the clock's registers. -/
def rtcMask (sel : Nat) : Byte := match sel with | 8 => 0x3F | 9 => 0x3F | 10 => 0x1F | 11 => 0xFF | _ => 0xC1

theorem Rtc.readReg_writeReg (h : 8 ≤ sel ∧ sel ≤ 12) : (r.writeReg sel v).readReg sel = v &&& rtcMask sel := by
  obtain rfl | rfl | rfl | rfl | rfl : sel = 8 ∨ sel = 9 ∨ sel = 10 ∨ sel = 11 ∨ sel = 12 := by omega
  case inr.inr.inr.inl => exact (BitVec.and_allOnes (x := v)).symm
  all_goals rfl

theorem Rtc.shownTime_eq : (r.shownTime : Int) =
    r.s.toNat + 60 * r.m.toNat + 3600 * r.h.toNat + 86400 * (r.dayl.toNat + 256 * (r.dayh.toNat % 2)) := by
  have bit : (r.dayh.getLsbD 0).toNat = r.dayh.toNat % 2 := by
    rw [getLsbD_zero_eq]
    rcases Nat.mod_two_eq_zero_or_one r.dayh.toNat with h | h <;> rw [h] <;> rfl
  rw [Rtc.shownTime, bit]
  push_cast
  rfl

end

/-- Whether the clock stands after a store to the selected register: bit 6 of a DAYH store, else as before. -/
def stopsClock (s : State) (v : Byte) : Bool := if s.cart.ramSel.toNat = 12 then v.getLsbD 6 else s.cart.rtc.halted

/-- What a store to a clock register leaves, the machine's dirty bit aside: the snapshot `r`, and a base from which the clock's
time is the snapshot's. -/
structure RtcWritten (s : State) (r : Rtc) (stops : Bool) (t : State) : Prop where
  rtc : t.cart.rtc = { r with halted := stops, haltTs := t.cart.rtc.haltTs, base := t.cart.rtc.base }
  time : (if stops then (t.cart.rtc.haltTs : Int) else (t.io.wallLast : Int)) - t.cart.rtc.base = r.shownTime
  haltTs : t.cart.rtc.haltTs = if s.cart.rtc.halted = false ∧ stops = true then t.io.wallLast else r.haltTs
  standing : s.cart.rtc.halted = true → stops = true → t.io = s.io
  queue : ∀ w ws, s.cart.rtc.halted = false ∨ stops = false → s.io.wallQueue = w :: ws →
    t.io.wallLast = max w s.io.wallLast ∧ t.io.wallQueue = ws
  monotone : s.io.wallLast ≤ t.io.wallLast
  frame : t = { s with
    cart := { s.cart with rtc := t.cart.rtc }
    io := { s.io with wallQueue := t.io.wallQueue, wallLast := t.io.wallLast, wallReads := t.io.wallReads } }

theorem rtcWritten_rtcWrite (s : State) (v : Byte) :
    RtcWritten s (s.cart.rtc.writeReg s.cart.ramSel.toNat v) (stopsClock s v) (rtcWrite s v) := by
  obtain ⟨-, halted, haltTs, -⟩ := s.cart.rtc.writeReg_frame (sel := s.cart.ramSel.toNat) v
  obtain ⟨frame, monotone, queue⟩ := wallRead_readWall s
  generalize hr : s.cart.rtc.writeReg s.cart.ramSel.toNat v = r at halted haltTs
  generalize hw : (readWall s).2 = w at frame queue
  generalize hn : (readWall s).1 = now at frame monotone queue
  have last : w.io.wallLast = now := by rw [frame]
  -- a store that reads the clock: it halts a running clock, or the clock runs after it
  have reading (stops : Bool) (ts : Nat) (hts : ts = if s.cart.rtc.halted = false ∧ stops = true then now else r.haltTs)
      (time : stops = true → ts = now) (reads : s.cart.rtc.halted = false ∨ stops = false) :
      RtcWritten s r stops (w.setRtc { r with halted := stops, haltTs := ts, base := (now : Int) - r.shownTime }) := by
    refine ⟨rfl, ?_, ?_, fun k1 k2 => ?_, fun q qs _ hq => ?_, ?_, ?_⟩
    · show (if stops then (ts : Int) else (w.io.wallLast : Int)) - ((now : Int) - r.shownTime) = r.shownTime
      rw [last]
      cases stops with
      | true => rw [if_pos rfl, time rfl, Int.sub_sub_self]
      | false => rw [if_neg Bool.false_ne_true, Int.sub_sub_self]
    · show ts = if s.cart.rtc.halted = false ∧ stops = true then w.io.wallLast else r.haltTs
      rw [last]
      exact hts
    · rcases reads with k | k
      · exact absurd (k.symm.trans k1) Bool.false_ne_true
      · exact absurd (k.symm.trans k2) Bool.false_ne_true
    · obtain ⟨next, rest⟩ := queue q qs hq
      exact ⟨last.trans next, rest⟩
    · exact monotone.trans last.ge
    · show w.setRtc _ = _
      rw [frame]
      rfl
  -- a store that leaves a halted clock halted: its reading is halt_ts
  have keeping (standing : s.cart.rtc.halted = true) :
      RtcWritten s r true (s.setRtc { r with halted := true, base := (r.haltTs : Int) - r.shownTime }) := by
    refine ⟨rfl, Int.sub_sub_self _ _, (if_neg fun k => Bool.false_ne_true (k.1.symm.trans standing)).symm, fun _ _ => rfl,
      fun q qs k _ => ?_, Nat.le_refl _, rfl⟩
    exact absurd (standing.symm.trans (k.resolve_right Bool.true_eq_false.mp)) Bool.true_eq_false.mp
  have running : RtcWritten s r false (w.setRtc { r with halted := false, base := (now : Int) - r.shownTime }) :=
    reading false r.haltTs (if_neg fun k => Bool.false_ne_true k.2).symm (fun k => absurd k Bool.false_ne_true) (.inr rfl)
  unfold rtcWrite
  simp only [hr, hw, hn, halted]
  by_cases sel : s.cart.ramSel.toNat = 12
  · rw [stopsClock, if_pos sel]
    cases bit : v.getLsbD 6 with
    | true =>
      cases standing : s.cart.rtc.halted with
      | true =>
        simp only [sel, Bool.true_eq_false, and_false, if_false, not_false_eq_true, and_self, if_true]
        exact keeping standing
      | false =>
        simp only [sel, and_self, if_true]
        exact reading true now (if_pos ⟨standing, rfl⟩).symm (fun _ => rfl) (.inl standing)
    | false =>
      simp only [sel, Bool.false_eq_true, false_and, and_false, and_self, not_true_eq_false, if_false]
      exact running
  · rw [stopsClock, if_neg sel]
    cases standing : s.cart.rtc.halted with
    | true =>
      simp only [sel, false_and, if_false, not_false_eq_true, and_self, if_true]
      exact keeping standing
    | false =>
      simp only [sel, false_and, Bool.false_eq_true, if_false]
      exact running

/-! ## What a latch shows (R893) -/

theorem toNat_ofInt_of_lt {t : Int} (h0 : 0 ≤ t) (h : t < 256) : ((BitVec.ofInt 8 t).toNat : Int) = t := by
  rw [BitVec.toNat_ofInt]
  omega

section
variable (r : Rtc) (t : Int)

theorem latchedAt_time : ((r.latchedAt t).s.toNat : Int) = t % 60 ∧ ((r.latchedAt t).m.toNat : Int) = t / 60 % 60 ∧
    ((r.latchedAt t).h.toNat : Int) = t / 3600 % 24 :=
  ⟨toNat_ofInt_of_lt (by omega) (by omega), toNat_ofInt_of_lt (by omega) (by omega), toNat_ofInt_of_lt (by omega) (by omega)⟩

theorem latchedAt_dayl : ((r.latchedAt t).dayl.toNat : Int) = t / 86400 % 256 := by
  show ((BitVec.ofInt 8 (t / 86400)).toNat : Int) = _
  rw [BitVec.toNat_ofInt]
  omega

/-- DAYH's fields do not overlap: the carry, the halt and the day's bit 8. -/
theorem toNat_dayh : ∀ (dayh : Byte) (late halted : Bool) (bit : Fin 2),
    ((dayh &&& 0x80) ||| (if late then 0x80 else 0) ||| (if halted then 0x40 else 0) ||| BitVec.ofNat 8 bit.val).toNat =
      (if dayh.getLsbD 7 = true ∨ late = true then 128 else 0) + (if halted then 64 else 0) + bit.val := by
  decide

theorem latchedAt_dayh : ((r.latchedAt t).dayh.toNat : Int) =
    (if r.dayh.getLsbD 7 = true ∨ 512 ≤ t / 86400 then 128 else 0) + (if r.halted then 64 else 0) + t / 86400 / 256 % 2 := by
  obtain ⟨bit, hbit⟩ : ∃ bit : Fin 2, (bit.val : Int) = t / 86400 / 256 % 2 := ⟨⟨(t / 86400 / 256 % 2).toNat, by omega⟩, by
    show ((t / 86400 / 256 % 2).toNat : Int) = _
    omega⟩
  have fields := toNat_dayh r.dayh (decide (512 ≤ t / 86400)) r.halted bit
  have shown : (r.latchedAt t).dayh = (r.dayh &&& 0x80) ||| (if decide (512 ≤ t / 86400) then 0x80 else 0)
      ||| (if r.halted then 0x40 else 0) ||| BitVec.ofNat 8 bit.val := by
    simp only [Rtc.latchedAt, decide_eq_true_eq, ← hbit, BitVec.ofInt_natCast]
  rw [shown, fields, ← hbit]
  push_cast
  simp only [decide_eq_true_eq]

/-- A halted clock that shows its own time, its fields in range, shows the same after a latch. -/
theorem latchedAt_shownTime (hs : r.s.toNat < 60) (hm : r.m.toNat < 60) (hh : r.h.toNat < 24) (halted : r.halted = true)
    (unused : r.dayh &&& 0x7E = 0x40) : r.latchedAt r.shownTime = r := by
  have time := r.shownTime_eq
  obtain ⟨ts, tm, th⟩ := latchedAt_time r r.shownTime
  have td := latchedAt_dayl r r.shownTime
  have tdh := latchedAt_dayh r r.shownTime
  have bits : ∀ v : Byte, v &&& 0x7E = 0x40 → v.toNat = (if v.getLsbD 7 = true then 128 else 0) + 64 + v.toNat % 2 := by decide
  have dayhBits := bits _ unused
  have dayl := r.dayl.isLt
  have s' : (r.latchedAt r.shownTime).s = r.s := BitVec.eq_of_toNat_eq (by omega)
  have m' : (r.latchedAt r.shownTime).m = r.m := BitVec.eq_of_toNat_eq (by omega)
  have h' : (r.latchedAt r.shownTime).h = r.h := BitVec.eq_of_toNat_eq (by omega)
  have dayl' : (r.latchedAt r.shownTime).dayl = r.dayl := BitVec.eq_of_toNat_eq (by omega)
  have dayh' : (r.latchedAt r.shownTime).dayh = r.dayh := by
    have early : ¬(512 : Int) ≤ r.shownTime / 86400 := by omega
    rw [halted, if_pos rfl] at tdh
    simp only [early, or_false] at tdh
    refine BitVec.eq_of_toNat_eq ?_
    split at tdh
    next carry =>
      rw [if_pos carry] at dayhBits
      omega
    next carry =>
      rw [if_neg carry] at dayhBits
      omega
  calc r.latchedAt r.shownTime
      = { r with
          s := (r.latchedAt r.shownTime).s
          m := (r.latchedAt r.shownTime).m
          h := (r.latchedAt r.shownTime).h
          dayl := (r.latchedAt r.shownTime).dayl
          dayh := (r.latchedAt r.shownTime).dayh } := rfl
    _ = r := by rw [s', m', h', dayl', dayh']

end

/-- The time of the clock that a latch or a store leaves, from its own reading. -/
theorem rtcNow_fst (s : State) :
    (rtcNow s).1 = if s.cart.rtc.halted then s.cart.rtc.haltTs else (rtcNow s).2.io.wallLast := by
  cases h : s.cart.rtc.halted with
  | true => rw [rtcNow_halted h, if_pos rfl]
  | false =>
    rw [rtcNow_running h, if_neg Bool.false_ne_true, (wallRead_readWall s).frame]

theorem Cart.extLocate_rtc {c : Cart} (hm : c.mapper = .mbc3) (hasRtc : c.hasRtc = true)
    (sel : 8 ≤ c.ramSel.toNat ∧ c.ramSel.toNat ≤ 12) (off : Nat) : c.extLocate off = .rtc := by
  have selects : c.selectsRtc = true := Cart.selectsRtc_iff.2 ⟨hm, sel⟩
  rw [Cart.extLocate, if_neg (by rw [hm]; decide), if_pos selects, if_pos hasRtc]

/-- Settles O52: the store by `RtcWritten`, the latch by `latchedAt`'s fields. -/
theorem rtcWriteAndLatch : Obligations.RtcWriteAndLatch := by
  refine ⟨fun s a v h k hm hasRtc enabled hsel hsel' => ?_, fun s hasRtc => ?_, fun s hasRtc halted hs hm hh unused base => ?_⟩
  · intro mask t
    have located := Cart.extLocate_rtc hm hasRtc ⟨hsel, hsel'⟩ (a.toNat - 0xA000)
    obtain ⟨rtc, time, haltTs, standing, queue, monotone, frame⟩ := rtcWritten_rtcWrite s v
    have write : t = markDirty (rtcWrite s v) := by
      simp only [t]
      rw [busWrite_ext h k, extWrite, if_pos enabled, located]
    generalize rtcWrite s v = u at rtc time haltTs standing queue monotone frame write
    have cart : u.cart = { s.cart with rtc := u.cart.rtc } := by rw [frame]
    have read : busRead t a = u.cart.rtc.readReg s.cart.ramSel.toNat := by
      have tLocated : t.cart.extLocate (a.toNat - 0xA000) = .rtc := by
        rw [write, markDirty, cart]
        exact located
      rw [busRead_ext h k, extRead, tLocated, write, markDirty, cart]
    obtain ⟨-, -, ts, flag⟩ := s.cart.rtc.writeReg_frame (sel := s.cart.ramSel.toNat) v
    have stops : u.cart.rtc.halted = stopsClock s v := by rw [rtc]
    rw [← stops] at time haltTs standing queue
    rw [read, write]
    refine ⟨?_, ?_, stops, ?_, ?_, fun ne => ?_, fun ne => ?_, fun ne => ?_, fun ne => ?_, fun ne => ?_, standing, queue,
      monotone, ?_, rfl, ?_⟩
    · rw [rtc]
      exact Rtc.readReg_writeReg s.cart.rtc v ⟨hsel, hsel'⟩
    · have shown : (s.cart.rtc.writeReg s.cart.ramSel.toNat v).shownTime = u.cart.rtc.shownTime := by
        rw [rtc]
        rfl
      exact (time.trans (congrArg Nat.cast shown)).trans u.cart.rtc.shownTime_eq
    · rw [ts] at haltTs
      exact haltTs
    · show u.cart.rtc.latchFlag = _
      rw [rtc]
      exact flag
    · show u.cart.rtc.s = _
      rw [rtc]
      exact Rtc.writeReg_s _ _ ne
    · show u.cart.rtc.m = _
      rw [rtc]
      exact Rtc.writeReg_m _ _ ne
    · show u.cart.rtc.h = _
      rw [rtc]
      exact Rtc.writeReg_h _ _ ne
    · show u.cart.rtc.dayl = _
      rw [rtc]
      exact Rtc.writeReg_dayl _ _ ne
    · show u.cart.rtc.dayh = _
      rw [rtc]
      exact Rtc.writeReg_dayh _ _ ⟨hsel, by omega⟩
    · rw [markDirty, frame]
    · show u.t + flushDelay = _
      rw [frame]
      rfl
  · intro t r time
    have readingTime : ((rtcNow s).1 : Int) - s.cart.rtc.base = time := by
      simp only [time, t]
      rw [rtcLatch_eq hasRtc, rtcNow_fst, Nat.cast_ite]
      rfl
    have latched : t = (rtcNow s).2.setRtc (s.cart.rtc.latchedAt time) := by
      rw [← readingTime]
      exact rtcLatch_eq hasRtc
    have rtc : r = s.cart.rtc.latchedAt time := by
      simp only [r]
      rw [latched]
      rfl
    have io : t.io = (rtcNow s).2.io := by rw [latched]; rfl
    obtain ⟨ts, tm, th⟩ := latchedAt_time s.cart.rtc time
    rw [rtc, io]
    refine ⟨ts, tm, th, latchedAt_dayl _ _, latchedAt_dayh _ _, rfl, ?_, ?_, fun halted => ?_, fun w ws running hq => ?_⟩
    · rw [latched, rtcNow_frame]
      rfl
    · cases halted : s.cart.rtc.halted with
      | true => rw [rtcNow_halted halted]
      | false =>
        rw [rtcNow_running halted, (wallRead_readWall s).frame]
        exact (wallRead_readWall s).monotone
    · rw [rtcNow_halted halted]
    · obtain ⟨next, rest⟩ := (wallRead_readWall s).queue w ws hq
      rw [rtcNow_running running]
      refine ⟨?_, rest⟩
      rw [(wallRead_readWall s).frame]
      exact next
  · have now : ((rtcNow s).1 : Int) - s.cart.rtc.base = s.cart.rtc.shownTime := by
      rw [rtcNow_halted halted, base, Int.sub_sub_self]
    rw [rtcLatch_eq hasRtc, now, latchedAt_shownTime _ hs hm hh halted unused, rtcNow_halted halted]
    rfl

end Sys2Proof.Machine
end

section
/-! PROOFS. 65_cartridge.md R880 to R885 and 66_input_host.md R960 to R962: the header's tables, the checks of an image, the load
and its invariant. -/

namespace Sys2Proof.Machine

/-! ## The header's tables (R882 to R884) -/

theorem mapperOf_of_row : ∀ row ∈ mapperTable, mapperOf row.1 = some row.2 := by decide
theorem romBanksOf_of_row : ∀ row ∈ romTable, romBanksOf row.1 = some row.2 := by decide
theorem ramSizeOf_of_row : ∀ row ∈ ramTable, ramSizeOf row.1 = some row.2 := by decide

theorem mapperOf_eq_none : ∀ v : Byte, (∀ row ∈ mapperTable, row.1 ≠ v.toNat) → mapperOf v.toNat = none := by decide
theorem romBanksOf_eq_none : ∀ v : Byte, (∀ row ∈ romTable, row.1 ≠ v.toNat) → romBanksOf v.toNat = none := by decide
theorem ramSizeOf_eq_none : ∀ v : Byte, (∀ row ∈ ramTable, row.1 ≠ v.toNat) → ramSizeOf v.toNat = none := by decide

/-- A code that a reader of a table knows is in the table. -/
theorem mem_of_reads {α : Type} {table : List (Nat × α)} {reader : Nat → Option α}
    (rows : ∀ row ∈ table, reader row.1 = some row.2)
    (others : ∀ v : Byte, (∀ row ∈ table, row.1 ≠ v.toNat) → reader v.toNat = none) {v : Byte} {x : α}
    (h : reader v.toNat = some x) : (v.toNat, x) ∈ table := by
  by_contra absent
  have unknown : reader v.toNat = none := others v fun row hrow code => absent (by
    have same := rows row hrow
    rw [code, h] at same
    rw [← code, Option.some.inj same]
    exact hrow)
  rw [h] at unknown
  exact absurd unknown (Option.some_ne_none x)

theorem mapperTable_clock : ∀ row ∈ mapperTable, row.2.2.2 = true → row.2.1 = .mbc3 ∧ row.2.2.1 = true := by decide
theorem romTable_bounds : ∀ row ∈ romTable, 2 ≤ row.2 ∧ row.2 ≤ 512 := by decide
theorem ramTable_sizes : ∀ row ∈ ramTable, row.2 ∈ [0, 2048, 8192, 32768, 131072] := by decide

/-! ## The checks of an image (R880, R885, R962) -/

/-- RAM_SIZE by the mapper and the code at 0x0149, which MBC2 ignores (R883). -/
def ramSizeFor (m : Mapper) (code : Nat) : Option Nat := if m = .mbc2 then some 0 else ramSizeOf code

section
variable {image : List Byte}

theorem parseCart_empty (h : image.length = 0) : parseCart image = .error .empty := if_pos h

theorem parseCart_tooLarge (h : maxImage < image.length) : parseCart image = .error .tooLarge :=
  (if_neg (Nat.ne_of_gt (Nat.zero_lt_of_lt h))).trans (if_pos h)

theorem parseCart_malformed (h0 : image.length ≠ 0) (h : image.length < 0x0150) :
    parseCart image = .error .malformedHeader := by
  have small : ¬maxImage < image.length := by
    rw [maxImage]
    omega
  exact (if_neg h0).trans ((if_neg small).trans (if_pos h))

variable (h : 0x0150 ≤ image.length) (k : image.length ≤ maxImage)
include h k

theorem parseCart_unsupportedMapper (hm : mapperOf (image.getD 0x0147 0).toNat = none) :
    parseCart image = .error .unsupportedMapper := by
  rw [parseCart, if_neg (by omega), if_neg (by omega), if_neg (by omega), hm]

theorem parseCart_unsupportedRomSize {row : Mapper × Bool × Bool} (hm : mapperOf (image.getD 0x0147 0).toNat = some row)
    (hr : romBanksOf (image.getD 0x0148 0).toNat = none) : parseCart image = .error .unsupportedRomSize := by
  rw [parseCart, if_neg (by omega), if_neg (by omega), if_neg (by omega), hm, hr]

theorem parseCart_unsupportedRamSize {row : Mapper × Bool × Bool} {banks : Nat}
    (hm : mapperOf (image.getD 0x0147 0).toNat = some row) (hr : romBanksOf (image.getD 0x0148 0).toNat = some banks)
    (hs : ramSizeFor row.1 (image.getD 0x0149 0).toNat = none) : parseCart image = .error .unsupportedRamSize := by
  rw [ramSizeFor] at hs
  rw [parseCart, if_neg (by omega), if_neg (by omega), if_neg (by omega), hm, hr]
  simp only [hs]

theorem parseCart_of_codes {row : Mapper × Bool × Bool} {banks size : Nat}
    (hm : mapperOf (image.getD 0x0147 0).toNat = some row) (hr : romBanksOf (image.getD 0x0148 0).toNat = some banks)
    (hs : ramSizeFor row.1 (image.getD 0x0149 0).toNat = some size) :
    parseCart image =
      if image.length < banks * 0x4000 then .error .tooSmall
      else .ok (Cart.fresh row.1 row.2.1 row.2.2 banks size (Rtc.fresh 0)) := by
  rw [ramSizeFor] at hs
  rw [parseCart, if_neg (by omega), if_neg (by omega), if_neg (by omega), hm, hr]
  simp only [hs]

end

/-- What the header of an image that parses holds. -/
structure GoodImage (image : List Byte) (c : Cart) : Prop where
  longEnough : 0x0150 ≤ image.length
  notTooLong : image.length ≤ maxImage
  mapper : ((image.getD 0x0147 0).toNat, c.mapper, c.battery, c.hasRtc) ∈ mapperTable
  romBanks : ((image.getD 0x0148 0).toNat, c.romBanks) ∈ romTable
  ramSize : ramSizeFor c.mapper (image.getD 0x0149 0).toNat = some c.ramSize
  allBanks : c.romBanks * 0x4000 ≤ image.length
  fresh : c = Cart.fresh c.mapper c.battery c.hasRtc c.romBanks c.ramSize (Rtc.fresh 0)

/-- The outcomes of the checks, one after the other. -/
inductive ParseOutcome (image : List Byte) : Prop where
  | empty (h : image.length = 0) (r : parseCart image = .error .empty)
  | tooLarge (h : maxImage < image.length) (r : parseCart image = .error .tooLarge)
  | malformed (h : image.length ≠ 0) (k : image.length < 0x0150) (r : parseCart image = .error .malformedHeader)
  | refused (h : 0x0150 ≤ image.length) (k : image.length ≤ maxImage) (e : LoadError)
      (he : e ∈ [LoadError.unsupportedMapper, .unsupportedRomSize, .unsupportedRamSize, .tooSmall])
      (r : parseCart image = .error e)
  | good (c : Cart) (h : GoodImage image c) (r : parseCart image = .ok c)

theorem parseOutcome (image : List Byte) : ParseOutcome image := by
  by_cases h0 : image.length = 0
  · exact .empty h0 (parseCart_empty h0)
  by_cases hl : maxImage < image.length
  · exact .tooLarge hl (parseCart_tooLarge hl)
  by_cases hs : image.length < 0x0150
  · exact .malformed h0 hs (parseCart_malformed h0 hs)
  have h : 0x0150 ≤ image.length := by omega
  have k : image.length ≤ maxImage := by omega
  cases hm : mapperOf (image.getD 0x0147 0).toNat with
  | none => exact .refused h k _ (by decide) (parseCart_unsupportedMapper h k hm)
  | some row =>
    cases hr : romBanksOf (image.getD 0x0148 0).toNat with
    | none => exact .refused h k _ (by decide) (parseCart_unsupportedRomSize h k hm hr)
    | some banks =>
      cases hz : ramSizeFor row.1 (image.getD 0x0149 0).toNat with
      | none => exact .refused h k _ (by decide) (parseCart_unsupportedRamSize h k hm hr hz)
      | some size =>
        have parsed := parseCart_of_codes h k hm hr hz
        by_cases short : image.length < banks * 0x4000
        · exact .refused h k _ (by decide) (parsed.trans (if_pos short))
        · refine .good (Cart.fresh row.1 row.2.1 row.2.2 banks size (Rtc.fresh 0))
            ⟨h, k, ?_, ?_, hz, Nat.not_lt.1 short, rfl⟩ (parsed.trans (if_neg short))
          · exact mem_of_reads mapperOf_of_row mapperOf_eq_none hm
          · exact mem_of_reads romBanksOf_of_row romBanksOf_eq_none hr

/-- The errors that an image's length gives. -/
theorem length_of_parseCart_error {image : List Byte} {e : LoadError}
    (he : e ∉ [LoadError.unsupportedMapper, .unsupportedRomSize, .unsupportedRamSize, .tooSmall])
    (r : parseCart image = .error e) :
    (image.length = 0 ∧ e = .empty) ∨ (maxImage < image.length ∧ e = .tooLarge) ∨
      (image.length ≠ 0 ∧ image.length < 0x0150 ∧ e = .malformedHeader) := by
  cases parseOutcome image with
  | empty h r' => exact .inl ⟨h, Except.error.inj (r.symm.trans r')⟩
  | tooLarge h r' => exact .inr (.inl ⟨h, Except.error.inj (r.symm.trans r')⟩)
  | malformed h k r' => exact .inr (.inr ⟨h, k, Except.error.inj (r.symm.trans r')⟩)
  | refused _ _ d hd r' => exact absurd (Except.error.inj (r'.symm.trans r) ▸ hd) he
  | good _ _ r' => exact nomatch r.symm.trans r'

theorem goodImage_of_parseCart {image : List Byte} {c : Cart} (h : parseCart image = .ok c) : GoodImage image c := by
  cases parseOutcome image with
  | good d good r =>
    rw [h] at r
    exact Except.ok.inj r ▸ good
  | empty _ r => exact nomatch h.symm.trans r
  | tooLarge _ r => exact nomatch h.symm.trans r
  | malformed _ _ r => exact nomatch h.symm.trans r
  | refused _ _ _ _ r => exact nomatch h.symm.trans r

section
variable {image : List Byte} {c : Cart} (h : GoodImage image c)
include h

theorem GoodImage.banks : 2 ≤ c.romBanks ∧ c.romBanks ≤ 512 := romTable_bounds _ h.romBanks

theorem GoodImage.ramSize_mem : c.ramSize ∈ [0, 2048, 8192, 32768, 131072] := by
  have size := h.ramSize
  rw [ramSizeFor] at size
  split at size
  · rw [← Option.some.inj size]
    exact List.mem_cons_self
  · exact ramTable_sizes _ (mem_of_reads ramSizeOf_of_row ramSizeOf_eq_none size)

theorem GoodImage.romBank : c.romBank = 1 := congrArg Cart.romBank h.fresh
theorem GoodImage.ramBank : c.ramBank = 0 := congrArg Cart.ramBank h.fresh
theorem GoodImage.mode : c.mode = false := congrArg Cart.mode h.fresh
theorem GoodImage.ramSel : c.ramSel = 0 := congrArg Cart.ramSel h.fresh
theorem GoodImage.ramEnable : c.ramEnable = (c.mapper == .plain) := congrArg Cart.ramEnable h.fresh

theorem GoodImage.romBankAt4000 : c.romBankAt4000 = 1 := by
  have banks := h.banks.1
  have one : (1 : BitVec 9).toNat = 1 := rfl
  have request : c.romBankRequest = 1 := by
    rw [Cart.romBankRequest, h.romBank, h.mode, one]
    cases c.mapper <;> rfl
  have reduced : c.romBankRequest % c.romBanks = 1 := by rw [request, Nat.mod_eq_of_lt banks]
  rw [Cart.romBankAt4000, reduced]
  exact if_neg fun k => Nat.one_ne_zero k.1

end

/-! ## The load (R961) -/

section
variable (image file : List Byte) (init : Memories) (wall : Nat) (boot : Bool → Cpu) (c : Cart)

/-- The memories at reset with the image in the ROM. -/
def romLoaded : Memories := { init with rom := Memory.ofBytes 0 (image.take (c.romBanks * 0x4000)) }

/-- The machine of an image with a fresh clock. -/
def loadedFresh : State :=
  State.resetWith (headerGbc image) (romLoaded image init c) { c with rtc := Rtc.fresh wall } wall (boot (headerGbc image))

/-- The memories with the save's RAM (R960). -/
def savedMemories : Memories :=
  if c.mapper = .mbc2 then
    { romLoaded image init c with
      mbc2Ram := Memory.ofBytes 0 ((file.take c.saveRamLength).map fun v => v &&& 0x0F) }
  else { romLoaded image init c with cartRam := Memory.ofBytes 0 (file.take c.saveRamLength) }

/-- The machine of an image and a save of a right length. -/
def loadedSave : State :=
  if c.hasRtc then
    State.resetWith (headerGbc image) (savedMemories image file init c)
      { c with rtc := Rtc.ofSave (file.drop c.saveRamLength) } 0 (boot (headerGbc image))
  else
    State.resetWith (headerGbc image) (savedMemories image file init c) { c with rtc := Rtc.fresh wall } wall
      (boot (headerGbc image))

end

section
variable {image : List Byte} {c : Cart} (h : parseCart image = .ok c) (init : Memories) (wall : Nat) (boot : Bool → Cpu)
include h

theorem load_none : load (some image) none init wall boot = .ok (loadedFresh image init wall boot c) := by
  simp only [load, h]
  rfl

theorem load_of_no_battery (hb : c.battery = false) (save : Option (List Byte)) :
    load (some image) save init wall boot = .ok (loadedFresh image init wall boot c) := by
  cases save with
  | none => exact load_none h init wall boot
  | some file =>
    simp only [load, h]
    exact if_pos hb

theorem load_corrupt (hb : c.battery = true) {file : List Byte} (hl : file.length ∉ c.saveLengths) :
    load (some image) (some file) init wall boot = .error .saveCorrupt := by
  have battery : ¬c.battery = false := by rw [hb]; exact Bool.noConfusion
  simp only [load, h]
  exact (if_neg battery).trans (if_pos hl)

theorem load_saved (hb : c.battery = true) {file : List Byte} (hl : file.length ∈ c.saveLengths) :
    load (some image) (some file) init wall boot = .ok (loadedSave image file init wall boot c) := by
  have battery : ¬c.battery = false := by rw [hb]; exact Bool.noConfusion
  simp only [load, h]
  refine (if_neg battery).trans ((if_neg (not_not_intro hl)).trans ?_)
  rw [loadedSave]
  split <;> rfl

end

theorem load_eq_corrupt_iff {image : List Byte} {c : Cart} (h : parseCart image = .ok c) (init : Memories) (wall : Nat)
    (boot : Bool → Cpu) (hb : c.battery = true) {file : List Byte} :
    load (some image) (some file) init wall boot = .error .saveCorrupt ↔ file.length ∉ c.saveLengths :=
  ⟨fun corrupt right => (nomatch (load_saved h init wall boot hb right).symm.trans corrupt), load_corrupt h init wall boot hb⟩

theorem Cart.mem_saveLengths_iff (c : Cart) (n : Nat) :
    n ∈ c.saveLengths ↔ if c.hasRtc then n = c.saveRamLength + 18 ∨ n = c.saveRamLength + 22 else n = c.saveRamLength := by
  rw [Cart.saveLengths]
  split
  · simp only [saveRtcFields, List.mem_cons, List.not_mem_nil, or_false]
  · rw [List.mem_singleton]

/-- The ROM windows of a loaded image read its bytes. -/
theorem busRead_loadedFresh {image : List Byte} {c : Cart} (h : GoodImage image c) (init : Memories) (wall : Nat)
    (boot : Bool → Cpu) {a : Word} (ha : a.toNat < 0x8000) :
    busRead (loadedFresh image init wall boot c) a = image.getD a.toNat 0 := by
  have banks := h.banks.1
  have index : c.romIndex a.toNat = a.toNat := by
    rw [Cart.romIndex, h.romBankAt4000]
    split <;> omega
  have read := Memory.read_ofBytes 0 (image.take (c.romBanks * 0x4000)) a.toNat
  rw [Nat.zero_add] at read
  rw [busRead, locate_rom _ ha]
  show (Memory.ofBytes 0 (image.take (c.romBanks * 0x4000))).read (c.romIndex a.toNat) = _
  rw [index, read, List.getD_eq_getElem?_getD, List.getElem?_take, if_pos (by omega), ← List.getD_eq_getElem?_getD]
  rfl

/-- Settles O54: the outcomes of the checks, and of a load the image's and the save's parts. -/
theorem loadGivesReset : Obligations.LoadGivesReset := by
  refine ⟨fun image init wall boot c h => ?_, fun image => ⟨?_, ?_, ?_, fun c h => ?_⟩, fun image h k => ?_,
    fun image save init wall boot => ⟨rfl, fun e h => ?_, fun c h => ⟨fun hb => ?_, fun file hb => ⟨?_, fun e he => ?_⟩⟩⟩⟩
  · refine ⟨_, load_none h init wall boot, rfl, rfl, fun hboot => ?_, rfl, rfl, fun a ha =>
      busRead_loadedFresh (goodImage_of_parseCart h) init wall boot ha, rfl, rfl⟩
    rw [hboot]
    cases hg : headerGbc image <;> (simp only [loadedFresh, hg]; exact ⟨rfl, rfl⟩)
  · refine ⟨fun r => ?_, fun h => parseCart_empty (List.length_eq_zero_iff.2 h)⟩
    rcases length_of_parseCart_error (by decide) r with ⟨h, -⟩ | ⟨-, e⟩ | ⟨-, -, e⟩
    · exact List.length_eq_zero_iff.1 h
    · exact nomatch e
    · exact nomatch e
  · refine ⟨fun r => ?_, parseCart_tooLarge⟩
    rcases length_of_parseCart_error (by decide) r with ⟨-, e⟩ | ⟨h, -⟩ | ⟨-, -, e⟩
    · exact nomatch e
    · exact h
    · exact nomatch e
  · refine ⟨fun r => ?_, fun ⟨h, k⟩ => parseCart_malformed (mt List.length_eq_zero_iff.1 h) k⟩
    rcases length_of_parseCart_error (by decide) r with ⟨-, e⟩ | ⟨-, e⟩ | ⟨h, k, -⟩
    · exact nomatch e
    · exact nomatch e
    · exact ⟨mt List.length_eq_zero_iff.2 h, k⟩
  · have good := goodImage_of_parseCart h
    have clock := mapperTable_clock _ good.mapper
    refine ⟨good.banks.1, good.banks.2, good.allBanks, good.ramSize_mem, good.romBank, good.ramBank, good.mode, good.ramSel, ?_,
      clock⟩
    rw [good.ramEnable, beq_iff_eq]
  · intro code romCode ramCode
    refine ⟨fun unknown => parseCart_unsupportedMapper h k (mapperOf_eq_none _ unknown), fun m battery rtc row => ?_⟩
    have hm : mapperOf code = some (m, battery, rtc) := mapperOf_of_row _ row
    refine ⟨fun unknown => parseCart_unsupportedRomSize h k hm (romBanksOf_eq_none _ unknown), fun banks row => ?_⟩
    have hr : romBanksOf romCode = some banks := romBanksOf_of_row _ row
    refine ⟨fun notMbc2 unknown => ?_, fun size row => ?_⟩
    · exact parseCart_unsupportedRamSize h k hm hr ((if_neg notMbc2).trans (ramSizeOf_eq_none _ unknown))
    · have hs : ramSizeFor m ramCode = some size := by
        rw [ramSizeFor]
        by_cases mbc2 : m = .mbc2
        · rw [if_pos mbc2] at row ⊢
          rw [row]
        · rw [if_neg mbc2] at row ⊢
          exact ramSizeOf_of_row _ row
      have parsed := parseCart_of_codes h k hm hr hs
      exact ⟨fun short => parsed.trans (if_pos short), fun all =>
        ⟨_, parsed.trans (if_neg (Nat.not_lt.2 all)), rfl, rfl, rfl, rfl, rfl⟩⟩
  · simp only [load, h]
  · rw [load_of_no_battery h init wall boot hb, load_none h]
  · intro ram
    rw [load_eq_corrupt_iff h init wall boot hb, c.mem_saveLengths_iff]
    split
    · exact not_or
    · exact Iff.rfl
  · by_cases hl : file.length ∈ c.saveLengths
    · exact nomatch (load_saved h init wall boot hb hl).symm.trans he
    · exact (Except.error.inj ((load_corrupt h init wall boot hb hl).symm.trans he)).symm

/-! ## The invariant at reset (R1000, R1001) -/

theorem resetWith_inv {mem : Memories} {cart : Cart} (hm : mem.Inv cart) (hc : cart.Inv) (gbc : Bool) (wall : Nat)
    (boot : Cpu) :
    (State.resetWith gbc mem cart wall boot).Inv where
  mem := hm
  ppu := ⟨(by decide : Ppu.reset.ly < frameLines), (by decide : Ppu.reset.linePosition < lineCycles)⟩
  dma := ⟨Nat.zero_le _, (by decide : 0 < 4), fun k => absurd k Bool.false_ne_true⟩
  hdma := ⟨Nat.zero_le _, fun k => absurd k Bool.false_ne_true⟩
  samplePhase := (by decide : Spu.reset.samplePhase < frameCycles)
  time := rfl
  cart := hc

theorem Memory.snd_mem_of_mem_ofBytes {start : Nat} {bytes : List Byte} {cell : Host.Cell}
    (h : cell ∈ Memory.ofBytes start bytes) : cell.2 ∈ bytes := by
  induction bytes generalizing start with
  | nil => exact absurd h List.not_mem_nil
  | cons v rest ih =>
    rw [Memory.ofBytes] at h
    split at h
    · exact List.mem_cons_of_mem _ (ih h)
    · rcases List.mem_cons.1 h with rfl | h
      · exact List.mem_cons_self
      · exact List.mem_cons_of_mem _ (ih h)

/-- A memory from at most `n` bytes is canonical and inside its size. -/
theorem Memory.inv_ofBytes {bytes : List Byte} {n : Nat} (h : bytes.length ≤ n) :
    (Memory.ofBytes 0 bytes).wf ∧ Memory.below n (Memory.ofBytes 0 bytes) :=
  ⟨Memory.wf_ofBytes 0 bytes, fun cell hcell => by
    obtain ⟨-, below, -⟩ := Memory.mem_ofBytes hcell
    omega⟩

section
variable {image file : List Byte} {init : Memories} {c : Cart}

theorem romLoaded_inv (h : ({ init with rom := [] } : Memories).Inv c) : (romLoaded image init c).Inv c :=
  { h with rom := Memory.inv_ofBytes (List.length_take_le _ _) }

theorem savedMemories_inv (h : ({ init with rom := [] } : Memories).Inv c) : (savedMemories image file init c).Inv c := by
  have loaded : (romLoaded image init c).Inv c := romLoaded_inv h
  have length := List.length_take_le c.saveRamLength file
  rw [savedMemories]
  split
  next mbc2 =>
    rw [Cart.saveRamLength, if_pos mbc2] at length ⊢
    refine { loaded with mbc2Ram := Memory.inv_ofBytes ((List.length_map _).trans_le length), nibbles := fun cell hcell => ?_ }
    obtain ⟨v, -, hv⟩ := List.mem_map.1 (Memory.snd_mem_of_mem_ofBytes hcell)
    rw [← hv]
    exact and_lt (k := 4) v 0x0F (by decide)
  next other =>
    rw [Cart.saveRamLength, if_neg other] at length ⊢
    exact { loaded with cartRam := Memory.inv_ofBytes length }

theorem GoodImage.inv (h : GoodImage image c) (rtc : Rtc) : ({ c with rtc := rtc } : Cart).Inv := by
  refine ⟨h.banks.1, ?_, ?_⟩
  · show c.romBank.toNat < c.mapper.romBankLimit
    rw [h.romBank]
    cases c.mapper <;> decide
  · show c.ramBank.toNat < c.mapper.ramBankLimit
    rw [h.ramBank]
    cases c.mapper <;> decide

theorem withRtc_memories_inv {mem : Memories} (h : mem.Inv c) (rtc : Rtc) : mem.Inv { c with rtc := rtc } :=
  { h with rom := h.rom }

theorem loadedFresh_inv (h : GoodImage image c) (hm : ({ init with rom := [] } : Memories).Inv c) (wall : Nat)
    (boot : Bool → Cpu) : (loadedFresh image init wall boot c).Inv :=
  resetWith_inv (withRtc_memories_inv (romLoaded_inv hm) _) (h.inv _) _ _ _

theorem loadedSave_inv (h : GoodImage image c) (hm : ({ init with rom := [] } : Memories).Inv c) (wall : Nat)
    (boot : Bool → Cpu) : (loadedSave image file init wall boot c).Inv := by
  rw [loadedSave]
  split <;> exact resetWith_inv (withRtc_memories_inv (savedMemories_inv hm) _) (h.inv _) _ _ _

end

theorem Memories.empty_inv (c : Cart) : Memories.empty.Inv c := by
  have none (n : Nat) : Memory.wf [] ∧ Memory.below n [] := ⟨Memory.wf_nil, fun _ h => absurd h List.not_mem_nil⟩
  exact ⟨none _, none _, none _, none _, none _, none _, none _, none _, none _, none _, fun _ h => absurd h List.not_mem_nil⟩

/-- Settles O32: `resetWith_inv`, for the empty memories and for those of a load. -/
theorem resetInvariant : Obligations.ResetInvariant := by
  refine ⟨resetWith_inv (Memories.empty_inv _) ⟨by decide, by decide, by decide⟩ _ _ _, ?_⟩
  intro image save init wall boot c s h hm loaded
  have good := goodImage_of_parseCart h
  cases save with
  | none =>
    rw [load_none h] at loaded
    exact Except.ok.inj loaded ▸ loadedFresh_inv good hm wall boot
  | some file =>
    cases hb : c.battery with
    | false =>
      rw [load_of_no_battery h init wall boot hb] at loaded
      exact Except.ok.inj loaded ▸ loadedFresh_inv good hm wall boot
    | true =>
      by_cases hl : file.length ∈ c.saveLengths
      · rw [load_saved h init wall boot hb hl] at loaded
        exact Except.ok.inj loaded ▸ loadedSave_inv good hm wall boot
      · exact nomatch (load_corrupt h init wall boot hb hl).symm.trans loaded

end Sys2Proof.Machine
end

section
/-! PROOFS. 65_cartridge.md R897 and 66_input_host.md R960: the save flush in its slot, and the save file's round trip. -/

namespace Sys2Proof.Machine

/-! ## The devices before the cartridge flush nothing -/

/-- The cartridge is as before, and the trace gained no flush. -/
structure NoFlush (s t : State) : Prop where
  cart : t.cart = s.cart
  trace : ∃ new, t.io.trace = new ++ s.io.trace ∧ ∀ o ∈ new, ∀ a b c, o ≠ .saveFlush a b c

theorem NoFlush.silent {s t : State} (cart : t.cart = s.cart) (io : t.io.trace = s.io.trace) : NoFlush s t :=
  ⟨cart, [], io, fun _ h => absurd h List.not_mem_nil⟩

theorem NoFlush.call {s t : State} (cart : t.cart = s.cart) {o : Output} (io : t.io.trace = o :: s.io.trace)
    (other : ∀ a b c, o ≠ .saveFlush a b c) : NoFlush s t :=
  ⟨cart, [o], io, fun _ h => List.mem_singleton.1 h ▸ other⟩

theorem NoFlush.trans {s t u : State} (h : NoFlush s t) (k : NoFlush t u) : NoFlush s u := by
  obtain ⟨new, trace, other⟩ := h.trace
  obtain ⟨new', trace', other'⟩ := k.trace
  refine ⟨k.cart.trans h.cart, new' ++ new, by rw [trace', trace, List.append_assoc], fun o ho => ?_⟩
  exact (List.mem_append.1 ho).elim (other' o) (other o)

theorem NoFlush.ite {s t u : State} {p : Prop} [Decidable p] (h : NoFlush s t) (k : NoFlush s u) :
    NoFlush s (if p then t else u) := by
  split
  · exact h
  · exact k

theorem NoFlush.repeatN {f : State → State} (hf : ∀ s, NoFlush s (f s)) (n : Nat) (s : State) :
    NoFlush s (Machine.repeatN f n s) := by
  induction n generalizing s with
  | zero => exact .silent rfl rfl
  | succ n ih => exact (hf s).trans (ih _)

theorem dmaCycle_noFlush (s : State) : NoFlush s (dmaCycle s) := by
  unfold dmaCycle
  exact .ite (.ite (.silent rfl rfl) (.silent rfl rfl)) (.silent rfl rfl)

theorem timerCycle_noFlush (s : State) : NoFlush s (timerCycle s) := by
  unfold timerCycle timerTick
  exact .ite (.ite (.silent rfl rfl) (.silent rfl rfl)) (.silent rfl rfl)

theorem spuCycle_noFlush (s : State) : NoFlush s (spuCycle s) := by
  unfold spuCycle
  exact .ite (.call rfl rfl fun _ _ _ k => nomatch k) (.silent rfl rfl)

theorem lineOutput_ne_saveFlush (s : State) (ly : Nat) (a b : Memory) (r : Rtc) : lineOutput s ly ≠ .saveFlush a b r := by
  intro k
  have line := lineOutput_line s ly
  rw [k] at line
  exact nomatch line

theorem lineEnd_cart (s : State) : (lineEnd s).cart = s.cart := by
  have stat (b : Bool) (u : State) : (requestStatIf b u).cart = u.cart := by rw [requestStatIf_eq]
  rw [lineEnd_eq, stat, stat]
  split
  · exact stat _ _
  · rfl

theorem lineEnd_noFlush (s : State) : NoFlush s (lineEnd s) := by
  refine ⟨lineEnd_cart s, _, lineEnd_trace s, fun o ho => ?_⟩
  split at ho
  · rw [List.mem_singleton.1 ho]
    exact fun _ _ _ k => nomatch k
  · exact absurd ho List.not_mem_nil

theorem hblankEntry_noFlush (s : State) : NoFlush s (hblankEntry s) := by
  refine .call ?_ (congrArg HostIo.trace (hblankEntry_io s)) (lineOutput_ne_saveFlush s s.ppu.ly)
  rw [hblankEntry_copyOnly s, hblankEvents_eq]

theorem ppuCycle_noFlush (s : State) : NoFlush s (ppuCycle s) := by
  by_cases on : s.ppu.lcdEnable = true
  · by_cases h455 : s.ppu.linePosition = 455
    · rw [ppuCycle_lineEnd on h455]
      exact lineEnd_noFlush s
    by_cases entry : s.ppu.linePosition = 251 ∧ s.ppu.ly < 144
    · rw [ppuCycle_hblank on entry.1 entry.2]
      exact .trans (t := alongLine 1 s) (.silent rfl rfl) (hblankEntry_noFlush _)
    · rw [ppuCycle_count on h455 entry]
      exact .silent rfl rfl
  · rw [ppuCycle_off (Bool.eq_false_iff.2 on)]
    exact .silent rfl rfl

/-- The machine in a slot before the cartridge's part of it. -/
def beforeCartSlot (s : State) : State :=
  repeatN spuCycle slotCycles (repeatN timerCycle slotCycles (repeatN dmaCycle slotCycles
    (repeatN ppuCycle slotCycles { s with t := s.t + slotCycles })))

theorem cycle_eq_cartSlot (s : State) : cycle s = cartSlot (s.t + 4) (beforeCartSlot s) := rfl

theorem beforeCartSlot_noFlush (s : State) : NoFlush s (beforeCartSlot s) :=
  .trans (t := { s with t := s.t + slotCycles }) (.silent rfl rfl)
    ((((NoFlush.repeatN ppuCycle_noFlush _ _).trans (.repeatN dmaCycle_noFlush _ _)).trans
      (.repeatN timerCycle_noFlush _ _)).trans (.repeatN spuCycle_noFlush _ _))

theorem beforeCartSlot_advance (s : State) : Advance { s with t := s.t + 4 } (beforeCartSlot s) :=
  (Advance.repeatN ppuCycle_advance 4 _).trans
    ((Advance.repeatN dmaCycle_advance 4 _).trans
      ((Advance.repeatN timerCycle_advance 4 _).trans (Advance.repeatN spuCycle_advance 4 _)))

/-! ## The cartridge's slot (R897) -/

section
variable {s : State} {t : Nat}

theorem cartCycle_waiting (h : s.cart.dirty = false ∨ t < s.cart.flushAt) : cartCycle t s = s :=
  if_neg fun k => h.elim (fun clean => Bool.false_ne_true (clean.symm.trans k.1)) (Nat.not_lt.2 k.2)

/-- The flush of a dirty cartridge. -/
def flushed (s : State) : State :=
  emit (.saveFlush s.mem.cartRam s.mem.mbc2Ram s.cart.rtc) { s with cart := { s.cart with dirty := false } }

theorem cartCycle_due (h : s.cart.dirty = true) (k : s.cart.flushAt ≤ t) : cartCycle t s = flushed s := if_pos ⟨h, k⟩

theorem cartCycle_flushed (s : State) (t : Nat) : cartCycle t (flushed s) = flushed s := cartCycle_waiting (.inl rfl)

theorem cartSlot_waiting (h : s.cart.dirty = false ∨ t < s.cart.flushAt) : cartSlot t s = s := by
  have waits (n : Nat) : cartCycle (t - n) s = s := cartCycle_waiting (h.imp_right fun k => by omega)
  rw [cartSlot, waits 3, waits 2, waits 1, cartCycle_waiting h]

/-- The slot in which the deadline falls flushes once, in the first cycle that reaches it. -/
theorem cartSlot_due (h : s.cart.dirty = true) (k : s.cart.flushAt ≤ t) : cartSlot t s = flushed s := by
  have once (n : Nat) : cartCycle (t - n) s = s ∨ cartCycle (t - n) s = flushed s := by
    by_cases due : s.cart.flushAt ≤ t - n
    · exact .inr (cartCycle_due h due)
    · exact .inl (cartCycle_waiting (.inr (Nat.lt_of_not_le due)))
  rw [cartSlot]
  rcases once 3 with e3 | e3 <;> rw [e3]
  · rcases once 2 with e2 | e2 <;> rw [e2]
    · rcases once 1 with e1 | e1 <;> rw [e1]
      · exact cartCycle_due h k
      · exact cartCycle_flushed s _
    · rw [cartCycle_flushed, cartCycle_flushed]
  · rw [cartCycle_flushed, cartCycle_flushed, cartCycle_flushed]

end

/-! ## The save file (R960) -/

theorem beBytes_length (k n : Nat) : (beBytes k n).length = k := by
  induction k generalizing n with
  | zero => rfl
  | succ k ih => rw [beBytes, List.length_append, ih, List.length_singleton]

theorem beNat_append_singleton (bytes : List Byte) (v : Byte) : beNat (bytes ++ [v]) = beNat bytes * 256 + v.toNat := by
  rw [beNat, List.foldl_append]
  rfl

theorem beNat_beBytes (k n : Nat) : beNat (beBytes k n) = n % 256 ^ k := by
  induction k generalizing n with
  | zero => rw [Nat.pow_zero, Nat.mod_one]; rfl
  | succ k ih =>
    have lowByte : n % 256 ^ (k + 1) = n % 256 + 256 * (n / 256 % 256 ^ k) := by rw [Nat.pow_succ', Nat.mod_mul]
    rw [beBytes, beNat_append_singleton, ih, BitVec.toNat_ofNat, lowByte]
    omega

theorem Rtc.toSave_length (r : Rtc) : r.toSave.length = 22 := by
  simp only [Rtc.toSave, List.length_append, beBytes_length, List.length_cons, List.length_nil]

/-- A saved clock's field at its offset. -/
theorem Rtc.saveByte_toSave (r : Rtc) {k : Nat} (h : 16 ≤ k) :
    saveByte r.toSave k =
      [if r.latchFlag then 1 else 0, r.s, r.m, r.h, r.dayl, r.dayh].getD (k - 16) (Config.saveByteBeyondFile k) := by
  have times : (beBytes 8 (r.base % 2 ^ 64).toNat ++ beBytes 8 r.haltTs).length = 16 := by
    rw [List.length_append, beBytes_length, beBytes_length]
  rw [saveByte, Rtc.toSave, List.getD_append_right _ _ _ _ (by rw [times]; exact h), times]

theorem latchFlagOfByte_ite (b : Bool) : latchFlagOfByte (if b then 1 else 0) = b := by
  cases b <;> rfl

/-- A clock's save loads into the same clock, the times modulo 2^64, the halt from bit 6 of DAYH. -/
theorem Rtc.ofSave_toSave (r : Rtc) :
    Rtc.ofSave r.toSave =
      { r with base := r.base % 2 ^ 64, haltTs := r.haltTs % 2 ^ 64, halted := r.dayh.getLsbD 6 } := by
  have base : r.toSave.take 8 = beBytes 8 (r.base % 2 ^ 64).toNat := by
    rw [Rtc.toSave, List.append_assoc]
    exact List.take_left' (beBytes_length 8 _)
  have haltTs : (r.toSave.drop 8).take 8 = beBytes 8 r.haltTs := by
    rw [Rtc.toSave, List.append_assoc, List.drop_left' (beBytes_length 8 _)]
    exact List.take_left' (beBytes_length 8 _)
  have baseNat : (beNat (r.toSave.take 8) : Int) = r.base % 2 ^ 64 := by
    rw [base, beNat_beBytes]
    omega
  have haltNat : beNat ((r.toSave.drop 8).take 8) = r.haltTs % 2 ^ 64 := by
    rw [haltTs, beNat_beBytes]
    rfl
  have latch : latchFlagOfByte (saveByte r.toSave 16) = r.latchFlag := by
    rw [r.saveByte_toSave (k := 16) (by decide)]
    exact latchFlagOfByte_ite _
  rw [Rtc.ofSave, baseNat, haltNat, latch, r.saveByte_toSave (k := 17) (by decide), r.saveByte_toSave (k := 18) (by decide),
    r.saveByte_toSave (k := 19) (by decide), r.saveByte_toSave (k := 20) (by decide), r.saveByte_toSave (k := 21) (by decide)]
  rfl

theorem saveByte_take (part : List Byte) {k n : Nat} (h : k < n) : saveByte (part.take n) k = saveByte part k := by
  rw [saveByte, saveByte, List.getD_eq_getElem?_getD, List.getD_eq_getElem?_getD, List.getElem?_take, if_pos h]

/-- The first 18 bytes hold everything but M, H, the day and the halt. -/
theorem Rtc.ofSave_take (part : List Byte) :
    Rtc.ofSave (part.take 18) =
      { Rtc.ofSave part with
        halted := (Rtc.ofSave (part.take 18)).dayh.getLsbD 6
        m := (Rtc.ofSave (part.take 18)).m
        h := (Rtc.ofSave (part.take 18)).h
        dayl := (Rtc.ofSave (part.take 18)).dayl
        dayh := (Rtc.ofSave (part.take 18)).dayh } := by
  have base : (part.take 18).take 8 = part.take 8 := by rw [List.take_take]; rfl
  have haltTs : ((part.take 18).drop 8).take 8 = (part.drop 8).take 8 := by rw [List.drop_take, List.take_take]; rfl
  have latch : saveByte (part.take 18) 16 = saveByte part 16 := saveByte_take part (by decide)
  have seconds : saveByte (part.take 18) 17 = saveByte part 17 := saveByte_take part (by decide)
  rw [Rtc.ofSave, Rtc.ofSave, base, haltTs, latch, seconds]

/-- The RAM part of a save. -/
def saveRam (c : Cart) (cartRam mbc2Ram : Memory) : List Byte :=
  if c.mapper = .mbc2 then (mbc2Ram.toBytes 0 512).map fun v => v ||| 0xF0 else cartRam.toBytes 0 c.ramSize

theorem Memory.toBytes_length (m : Memory) (start n : Nat) : (m.toBytes start n).length = n := by
  rw [Memory.toBytes, List.length_map, List.length_range]

theorem saveRam_length (c : Cart) (cartRam mbc2Ram : Memory) : (saveRam c cartRam mbc2Ram).length = c.saveRamLength := by
  rw [saveRam, Cart.saveRamLength]
  split
  · rw [List.length_map, Memory.toBytes_length]
  · exact Memory.toBytes_length _ _ _

section
variable (c : Cart) (cartRam mbc2Ram : Memory)

theorem saveBytes_eq : saveBytes c cartRam mbc2Ram = saveRam c cartRam mbc2Ram ++ if c.hasRtc then c.rtc.toSave else [] := rfl

theorem saveBytes_take : (saveBytes c cartRam mbc2Ram).take c.saveRamLength = saveRam c cartRam mbc2Ram :=
  List.take_left' (saveRam_length c cartRam mbc2Ram)

theorem saveBytes_drop (h : c.hasRtc = true) : (saveBytes c cartRam mbc2Ram).drop c.saveRamLength = c.rtc.toSave := by
  rw [saveBytes_eq, if_pos h]
  exact List.drop_left' (saveRam_length c cartRam mbc2Ram)

theorem saveBytes_length : (saveBytes c cartRam mbc2Ram).length = c.saveRamLength + if c.hasRtc then 22 else 0 := by
  rw [saveBytes_eq, List.length_append, saveRam_length]
  split
  · rw [Rtc.toSave_length]
  · rfl

end

theorem getD_map_range {α : Type} (f : Nat → α) {i n : Nat} (h : i < n) (d : α) : ((List.range n).map f).getD i d = f i := by
  rw [List.getD_eq_getElem?_getD, List.getElem?_map, List.getElem?_range h]
  rfl

theorem Memory.read_ofBytes_map_range (f : Nat → Byte) {i n : Nat} (h : i < n) :
    (Memory.ofBytes 0 ((List.range n).map f)).read i = f i := by
  have read := Memory.read_ofBytes 0 ((List.range n).map f) i
  rw [Nat.zero_add] at read
  exact read.trans (getD_map_range f h _)

/-- A nibble saved with its upper bits 1 and loaded without them reads as before. -/
theorem highNibble_or : ∀ v : Byte, 0xF0 ||| ((v ||| 0xF0) &&& 0x0F) = 0xF0 ||| v := by decide

/-! ## The machine of a save -/

section
variable (image file : List Byte) (init : Memories) (wall : Nat) (boot : Bool → Cpu) (c : Cart)

theorem loadedSave_mem : (loadedSave image file init wall boot c).mem = savedMemories image file init c := by
  rw [loadedSave]
  split <;> rfl

theorem loadedSave_rtc : (loadedSave image file init wall boot c).cart.rtc =
    if c.hasRtc then Rtc.ofSave (file.drop c.saveRamLength) else Rtc.fresh wall := by
  rw [loadedSave]
  split <;> rfl

/-- It is the reset state of the image, with the save's RAM and clock. -/
theorem loadedSave_eq : loadedSave image file init wall boot c =
    State.resetWith (headerGbc image) (loadedSave image file init wall boot c).mem
      { c with rtc := (loadedSave image file init wall boot c).cart.rtc } (loadedSave image file init wall boot c).io.wallLast
      (boot (headerGbc image)) := by
  rw [loadedSave]
  split <;> rfl

theorem savedMemories_frame : savedMemories image file init c =
    { romLoaded image init c with
      cartRam := (savedMemories image file init c).cartRam
      mbc2Ram := (savedMemories image file init c).mbc2Ram } := by
  rw [savedMemories]
  split <;> rfl

/-- Of the file, the memories depend on the RAM part alone. -/
theorem savedMemories_take (n : Nat) :
    savedMemories image (file.take (c.saveRamLength + n)) init c = savedMemories image file init c := by
  rw [savedMemories, savedMemories, List.take_take, Nat.min_eq_left (Nat.le_add_right _ _)]

end

/-- Settles O53: the slot's flush by `cartSlot_due` and `cartSlot_waiting`, the file by the parts it was written from. -/
theorem saveFlush : Obligations.SaveFlush := by
  refine ⟨fun s => ?_, fun s image init wall boot c h hb mapper ramSize hasRtc => ?_⟩
  · obtain ⟨cart, new, trace, other⟩ := beforeCartSlot_noFlush s
    have cartRam := (beforeCartSlot_advance s).cartRam
    have mbc2Ram := (beforeCartSlot_advance s).mbc2Ram
    rw [cycle_eq_cartSlot]
    generalize beforeCartSlot s = u at cart trace cartRam mbc2Ram
    refine ⟨fun dirty due => ?_, fun waiting => ?_⟩
    · rw [cartSlot_due (by rw [cart]; exact dirty) (by rw [cart]; exact due)]
      refine ⟨rfl, new, ?_, other⟩
      show Output.saveFlush u.mem.cartRam u.mem.mbc2Ram u.cart.rtc :: u.io.trace = _
      rw [cartRam, mbc2Ram, cart, trace]
      rfl
    · rw [cartSlot_waiting (by rw [cart]; exact waiting), cart]
      exact ⟨rfl, new, trace, other⟩
  · intro file mode ram
    have sameLength : s.cart.saveRamLength = c.saveRamLength := by rw [Cart.saveRamLength, Cart.saveRamLength, mapper, ramSize]
    have takeRam : file.take c.saveRamLength = saveRam s.cart s.mem.cartRam s.mem.mbc2Ram := by
      rw [← sameLength]
      exact saveBytes_take _ _ _
    have fileLength : file.length = c.saveRamLength + if c.hasRtc then 22 else 0 := by
      rw [← sameLength, ← hasRtc]
      exact saveBytes_length _ _ _
    have right : file.length ∈ c.saveLengths := by
      rw [c.mem_saveLengths_iff, fileLength]
      split
      · exact .inr rfl
      · rfl
    refine ⟨_, load_saved h init wall boot hb right, fun mbc2 i hi => ?_, fun other i hi => ?_, fun clock => ⟨?_, ?_⟩,
      loadedSave_eq image file init wall boot c, fun u hu => ⟨?_, fun noClock => ?_⟩⟩
    · rw [loadedSave_mem, savedMemories, if_pos mbc2, takeRam, saveRam, if_pos (mapper.trans mbc2), Memory.toBytes,
        List.map_map, List.map_map]
      dsimp only
      rw [Memory.read_ofBytes_map_range _ hi]
      exact (highNibble_or _).trans (by simp only [Nat.zero_add])
    · rw [loadedSave_mem, savedMemories, if_neg other, takeRam, saveRam, if_neg (mapper ▸ other), Memory.toBytes]
      exact (Memory.read_ofBytes_map_range _ (ramSize.symm ▸ hi)).trans (by rw [Nat.zero_add])
    · rw [loadedSave_rtc, if_pos clock]
      have part : file.drop c.saveRamLength = s.cart.rtc.toSave := by
        rw [← sameLength]
        exact saveBytes_drop _ _ _ (hasRtc.trans clock)
      rw [part, Rtc.ofSave_toSave]
    · have cutLength : (file.take (c.saveRamLength + 18)).length = c.saveRamLength + 18 := by
        rw [List.length_take, fileLength, if_pos clock]
        omega
      have rightCut : (file.take (c.saveRamLength + 18)).length ∈ c.saveLengths := by
        rw [c.mem_saveLengths_iff, if_pos clock, cutLength]
        exact .inl rfl
      refine ⟨loadedSave image (file.take (c.saveRamLength + 18)) init wall boot c, load_saved h init wall boot hb rightCut,
        ?_, ?_⟩
      · rw [loadedSave_mem, loadedSave_mem, savedMemories_take]
      · rw [loadedSave_rtc, loadedSave_rtc, if_pos clock, if_pos clock, List.drop_take, Nat.add_sub_cancel_left]
        exact Rtc.ofSave_take _
    · rw [load_none h] at hu
      rw [← Except.ok.inj hu, loadedSave_mem]
      exact savedMemories_frame image file init c
    · rw [load_none h] at hu
      rw [← Except.ok.inj hu, loadedSave_rtc, if_neg (by rw [noClock]; exact Bool.false_ne_true)]
      rfl

end Sys2Proof.Machine
end
